-- ==== Sys2Proof/Word.lean ====
section
/-! DEFINITION. The words of the block (spec 00_scope.md R11, R12): a byte, a 16-bit value, a draw of 32 bytes. -/

namespace Sys2Proof

/-- A byte, an unsigned value 0 to 255 (R12). -/
abbrev Byte := BitVec 8

/-- A 16-bit value: `param2`, a zone address, the result of `crc16` (R11, R84, R110). -/
abbrev Half := BitVec 16

/-- Exactly 32 bytes: one draw from the entropy input (R9), one message of `computeCombine` (R163). -/
abbrev Bytes32 := Vector Byte 32

end Sys2Proof
end

