-- ==== Sys2Proof/Config.lean ====
section
/-! DEFINITION. What an implementation fixes and what stays open: the types of the configuration, and the free values.
The NUMBERS of the parameters (R10, R11) stand in Machine/Params.lean. -/

namespace Sys2Proof

/-- The device states (R28): "one of {IDLE, SLEEP, ACTIVE}". -/
inductive DeviceState where
  | idle
  | sleep
  | active
  deriving DecidableEq, Repr

/-- One value of the opcode byte: the nine commands, or anything else (R19, R86, R87). -/
inductive Command where
  | random
  | nonce
  | genkey
  | sign
  | verify
  | read
  | write
  | lock
  | info
  | unknown
  deriving DecidableEq, Repr

/-- The nine opcode bytes, the parameters `OP_*` of R11: named, since the source gives no numbers (decision D4). -/
structure OpcodeMap where
  random : Byte
  nonce  : Byte
  genkey : Byte
  sign   : Byte
  verify : Byte
  read   : Byte
  write  : Byte
  lock   : Byte
  info   : Byte
  deriving DecidableEq, Repr

/-- The two readings of the CRC (conflict C1): the stated polynomial, bit by bit (R111, R112), and the sketched byte update
(R118), which the spec records and does not follow. -/
inductive CrcVariant where
  | bitSerial
  | sketched
  deriving DecidableEq, Repr

/-- The free value of the `n`-th draw: 32 bytes "under no law" (R9, decision D22, U3), for a draw that the entropy input
presents no bytes for. It has no body: nothing is known of it (log 1). -/
opaque Config.freeDraw : Nat → Bytes32

/-- OPEN (R11, decision D27): the byte that names the key type P-256. No rule reads it (log 22). -/
opaque Config.keyTypeP256 : Byte

/-- OPEN (R11, decision D27): the byte that names the key type AES. No rule reads it (log 22). -/
opaque Config.keyTypeAes : Byte

/-- OPEN (R11, R321, decision D13): the unit of a latency, "time units". No rule reads it (log 16). -/
opaque Config.latencyUnit : Nat

end Sys2Proof
end

