-- ==== Sys2Proof/Machine/Params.lean ====
section
/-! DEFINITION. The numbers of the parameters: those the source fixes (R10) and those it leaves open, at the value the spec
takes (R11). They stand in this folder so that each can be mended alone. -/

namespace Sys2Proof.Machine

/-- `CFG_SIZE` (R10). -/
@[simp] def cfgSize : Nat := 128
/-- `OTP_SIZE` (R10). -/
@[simp] def otpSize : Nat := 64
/-- `DATA_SIZE` (R10). -/
@[simp] def dataSize : Nat := 1024
/-- `BUF_SIZE` (R10). -/
@[simp] def bufSize : Nat := 128
/-- `MAX_XFER` (R10). -/
@[simp] def maxXfer : Nat := 32
/-- `SLOT_COUNT` (R10). -/
@[simp] def slotCount : Nat := 16
/-- `SLOT_SIZE` (R10). -/
@[simp] def slotSize : Nat := 32
/-- `CFG_LOCK_OFF` (R10). -/
@[simp] def cfgLockOff : Nat := 87
/-- `DATA_LOCK_OFF` (R10). -/
@[simp] def dataLockOff : Nat := 86
/-- `LOCKED` (R10, R92). -/
def lockedByte : Byte := 0x00
/-- `WA_COMMAND` (R10, R88). -/
def waCommandByte : Byte := 0x03
/-- `ZONE_CONFIG` (R10, R89). -/
def zoneConfig : Byte := 0
/-- `ZONE_OTP` (R10, R89). -/
def zoneOtp : Byte := 1
/-- `ZONE_DATA` (R10, R89). -/
def zoneData : Byte := 2
/-- `CRC_POLY` (R10). -/
def crcPoly : Half := 0x8005
/-- `CRC_INIT` (R11, decision D1; log 7). -/
def crcInit : Half := 0x0000
/-- Which reading of the CRC `crc16` computes (R118, decision D1; log 7). -/
def crcVariant : CrcVariant := .bitSerial
/-- `RANDOM_STATUS` (R11, decision D11; log 14). -/
def randomStatus : Byte := 0x00

/-- The opcode bytes, at the spec's defaults (R86, decision D4; log 9). -/
def opcodes : OpcodeMap where
  random := 0x1B
  nonce  := 0x16
  genkey := 0x40
  sign   := 0x41
  verify := 0x45
  read   := 0x02
  write  := 0x12
  lock   := 0x17
  info   := 0x30

/-- The latency of each command (R10, R321); the unknown command has none (R211, conflict C8; log 16). -/
def latency : Command → Option (BitVec 32)
  | .random  => some 23
  | .nonce   => some 7
  | .genkey  => some 115
  | .sign    => some 60
  | .verify  => some 72
  | .read    => some 1
  | .write   => some 26
  | .lock    => some 32
  | .info    => some 1
  | .unknown => none

/-- The numeric encoding of the device states (R90, decision D19; log 6). -/
def deviceStateCode : DeviceState → BitVec 2
  | .idle   => 0
  | .sleep  => 1
  | .active => 2

end Sys2Proof.Machine

namespace Sys2Proof

/-- The nine bytes of an opcode map, in the order of R11. -/
def OpcodeMap.bytes (m : OpcodeMap) : List Byte :=
  [m.random, m.nonce, m.genkey, m.sign, m.verify, m.read, m.write, m.lock, m.info]

/-- "The one property of the nine values that any rule relies on is that they are pairwise distinct" (R86). -/
abbrev OpcodeMap.Distinct (m : OpcodeMap) : Prop := m.bytes.Pairwise (· ≠ ·)

/-- The opcode byte of a command; the unknown command has no byte of its own. -/
def OpcodeMap.byteOf (m : OpcodeMap) : Command → Option Byte
  | .random  => some m.random
  | .nonce   => some m.nonce
  | .genkey  => some m.genkey
  | .sign    => some m.sign
  | .verify  => some m.verify
  | .read    => some m.read
  | .write   => some m.write
  | .lock    => some m.lock
  | .info    => some m.info
  | .unknown => none

/-- The opcode decoder: "the match is on the full byte", and every other byte is an unknown command (R86, R87, R210). -/
def OpcodeMap.command (m : OpcodeMap) (op : Byte) : Command :=
  if op = m.random then .random
  else if op = m.nonce then .nonce
  else if op = m.genkey then .genkey
  else if op = m.sign then .sign
  else if op = m.verify then .verify
  else if op = m.read then .read
  else if op = m.write then .write
  else if op = m.lock then .lock
  else if op = m.info then .info
  else .unknown

namespace Machine

/-- Whether a frame of this declared length is ever complete (R83): 2 to 128. -/
def lengthCompletes (len : Byte) : Bool := decide (2 ≤ len.toNat ∧ len.toNat ≤ bufSize)

end Machine

end Sys2Proof
end

