-- ==== Sys2Proof/Syntax.lean ====
section
/-! DEFINITION. The instructions: one constructor for each row of spec/opcode_table.json, at the three levels of R80:
command frames and Word Addresses (the encodings), primitives and service operations (calls of the host), and the two
pseudo-instructions of R96. -/

namespace Sys2Proof

/-- The fields of a command frame beside its marker and opcode (R81): declared length, `param1`, `param2`, and the bytes from
index 6 to index `len - 1`, which are the payload and, last, the CRC position. A frame of length 6 or less has no such
byte. -/
structure Frame where
  len    : Byte
  param1 : Byte
  param2 : Half
  tail   : List Byte
  deriving DecidableEq, Repr

/-- Bytes 6 to L - 2 (R81). -/
def Frame.payload (f : Frame) : List Byte := f.tail.dropLast

/-- Byte L - 1, the CRC position, where there is one (R81, R85). -/
def Frame.crc (f : Frame) : Option Byte := f.tail.getLast?

inductive Instr where
  -- command frames
  | random (f : Frame)
  | nonce (f : Frame)
  | genkey (f : Frame)
  | sign (f : Frame)
  | verify (f : Frame)
  | read (f : Frame)
  | write (f : Frame)
  | lock (f : Frame)
  | info (f : Frame)
  | unknown (op : Byte) (f : Frame)
  -- Word Addresses
  | waCommand
  | waOther (b : Byte)
  -- primitives
  | init
  | deliver (b : Byte)
  | take
  -- service operations
  | crc16 (bytes : List Byte)
  | readZone (zone : Byte) (address : Half) (length : Byte)
  | writeZone (zone : Byte) (address : Half) (bytes : List Byte)
  | lockConfig
  | lockDataAndOtp
  | isConfigLocked
  | isDataAndOtpLocked
  | storeKey (slot : Byte) (key : List Byte) (keyType : Byte)
  | generateKey (slot : Byte) (keyType : Byte)
  | computeCombine (slot : Byte) (message : Bytes32)
  | deriveChild (parent : Byte)
  | setState (d : DeviceState)
  -- pseudo-instructions
  | frame (op : Byte) (param1 : Byte) (param2 : Half) (payload : List Byte) (crc : Byte)
  | raw (bytes : List Byte)
  deriving DecidableEq, Repr

/-- The instructions the host can request in one step: the three primitives and the twelve service operations (R7, R8, R278).
Commands and Word Addresses are read by the block from delivered bytes; FRAME and RAW stand for several requests. -/
def Instr.isRequest : Instr → Bool
  | .random _ | .nonce _ | .genkey _ | .sign _ | .verify _ | .read _ | .write _ | .lock _ | .info _ | .unknown _ _ => false
  | .waCommand | .waOther _ => false
  | .init | .deliver _ | .take => true
  | .crc16 _ | .readZone _ _ _ | .writeZone _ _ _ | .lockConfig | .lockDataAndOtp | .isConfigLocked
  | .isDataAndOtpLocked | .storeKey _ _ _ | .generateKey _ _ | .computeCombine _ _ | .deriveChild _ | .setState _ => true
  | .frame _ _ _ _ _ | .raw _ => false

/-- One request of the host. -/
abbrev Request := { i : Instr // i.isRequest = true }

/-- The request of one received byte. -/
def Request.deliver (b : Byte) : Request := ⟨.deliver b, rfl⟩

/-- The request of one transmitted byte. -/
def Request.take : Request := ⟨.take, rfl⟩

end Sys2Proof
end

