-- ==== Sys2Proof/WellFormed.lean ====
section
/-! DEFINITION. Which instruction terms stand for an instruction of the spec, each check with a name of its own. -/

namespace Sys2Proof

/-- Why a term is ill formed. -/
inductive IllFormed where
  /-- The frame's bytes from index 6 are not `len - 6` many (R81, R82). -/
  | tailLength
  /-- The declared length is one that never completes: 0, 1, or 129 and more (R83). -/
  | neverCompletes
  /-- The opcode of an unknown command is one of the nine (R87). -/
  | opcodeIsKnown
  /-- The other Word Address is 03, the command marker (R88). -/
  | isCommandMarker
  /-- The payload of FRAME has more than 121 bytes (R82, R96). -/
  | payloadTooLong
  deriving DecidableEq, Repr

/-- The frame holds as many bytes as its declared length says (R81, R82). -/
def Frame.shapeDefect (f : Frame) : Option IllFormed :=
  if f.tail.length = f.len.toNat - 6 then none else some .tailLength

/-- The declared length is one the framer can complete (R83). -/
def Frame.lengthDefect (f : Frame) : Option IllFormed :=
  if Machine.lengthCompletes f.len then none else some .neverCompletes

/-- The largest payload of a well-formed frame: 128 - 7 (R82). -/
def maxPayload : Nat := 121

/-- What keeps the term from having an encoding of its own. -/
def Instr.shapeDefect : Instr → Option IllFormed
  | .random f | .nonce f | .genkey f | .sign f | .verify f | .read f | .write f | .lock f | .info f => f.shapeDefect
  | .unknown op f => if Machine.opcodes.command op = .unknown then f.shapeDefect else some .opcodeIsKnown
  | .waCommand => none
  | .waOther b => if b = Machine.waCommandByte then some .isCommandMarker else none
  | .frame _ _ _ payload _ => if payload.length ≤ maxPayload then none else some .payloadTooLong
  | .init | .deliver _ | .take | .crc16 _ | .readZone _ _ _ | .writeZone _ _ _ | .lockConfig | .lockDataAndOtp
  | .isConfigLocked | .isDataAndOtpLocked | .storeKey _ _ _ | .generateKey _ _ | .computeCombine _ _ | .deriveChild _
  | .setState _ | .raw _ => none

/-- What keeps a frame of that shape from ever being dispatched. -/
def Instr.lengthDefect : Instr → Option IllFormed
  | .random f | .nonce f | .genkey f | .sign f | .verify f | .read f | .write f | .lock f | .info f | .unknown _ f =>
    f.lengthDefect
  | .waCommand | .waOther _ | .frame _ _ _ _ _ | .init | .deliver _ | .take | .crc16 _ | .readZone _ _ _
  | .writeZone _ _ _ | .lockConfig | .lockDataAndOtp | .isConfigLocked | .isDataAndOtpLocked | .storeKey _ _ _
  | .generateKey _ _ | .computeCombine _ _ | .deriveChild _ | .setState _ | .raw _ => none

/-- The first check that fails. -/
def Instr.defect (i : Instr) : Option IllFormed := i.shapeDefect.or i.lengthDefect

/-- The term has the shape of its row, whatever its declared length. -/
abbrev Instr.WellShaped (i : Instr) : Prop := i.shapeDefect = none

/-- The term passes every check. -/
abbrev Instr.WellFormed (i : Instr) : Prop := i.defect = none

end Sys2Proof
end

