-- ==== Sys2Proof/Decode.lean ====
section
/-! DEFINITION. The decoder, total on any bytes, and the encoder. What has a bit encoding is a bus write's Word Address (R88)
and the command frame (R81); the primitives, the service operations and the pseudo-instructions have none (R80). -/

namespace Sys2Proof

/-- `param2` from its two bytes, the low one first (R57, R84). -/
def joinLE (lo hi : Byte) : Half := lo.setWidth 16 ||| (hi.setWidth 16 <<< 8)

/-- Bits 7:0. -/
def lowByte (h : Half) : Byte := h.setWidth 8

/-- Bits 15:8. -/
def highByte (h : Half) : Byte := (h >>> 8).setWidth 8

/-- Why the decoder refuses. -/
inductive DecodeReject where
  /-- There is no byte. -/
  | noByte
  /-- A command frame with fewer bytes than its fixed fields and its declared length take. -/
  | truncatedFrame
  deriving DecidableEq, Repr

/-- The instruction of an opcode byte and the fields of its frame (R86, R210). -/
def commandInstr (op : Byte) (f : Frame) : Instr :=
  match Machine.opcodes.command op with
  | .random  => .random f
  | .nonce   => .nonce f
  | .genkey  => .genkey f
  | .sign    => .sign f
  | .verify  => .verify f
  | .read    => .read f
  | .write   => .write f
  | .lock    => .lock f
  | .info    => .info f
  | .unknown => .unknown op f

/-- The first byte of a bus write (R88). -/
def decodeWordAddress (b : Byte) : Instr := if b = Machine.waCommandByte then .waCommand else .waOther b

/-- The bytes after the marker of a command frame (R81). The fixed fields are read "whatever L is" (R210): a frame of fewer
than 6 bytes has the buffer's stale bytes in the places it did not send (R222; log 28). -/
def decodeFrameBody : List Byte → Except DecodeReject (Instr × List Byte)
  | len :: op :: p1 :: lo :: hi :: tail =>
    if tail.length < len.toNat - 6 then .error .truncatedFrame
    else .ok (commandInstr op ⟨len, p1, joinLE lo hi, tail.take (len.toNat - 6)⟩, tail.drop (len.toNat - 6))
  | _ => .error .truncatedFrame

/-- The instruction at the head of a bus write, and the bytes after it. The marker alone is the Word Address WA_COMMAND; the
marker with bytes after it opens a command frame. -/
def decode : List Byte → Except DecodeReject (Instr × List Byte)
  | [] => .error .noByte
  | [b] => .ok (decodeWordAddress b, [])
  | b :: rest => if b = Machine.waCommandByte then decodeFrameBody rest else .ok (.waOther b, rest)

/-- The bytes of a frame (R81). -/
def encodeFrame (op : Byte) (f : Frame) : List Byte :=
  Machine.waCommandByte :: f.len :: op :: f.param1 :: lowByte f.param2 :: highByte f.param2 :: f.tail

/-- The bytes of an instruction; none for those with no bit encoding (R80). -/
def encode : Instr → Option (List Byte)
  | .random f    => some (encodeFrame Machine.opcodes.random f)
  | .nonce f     => some (encodeFrame Machine.opcodes.nonce f)
  | .genkey f    => some (encodeFrame Machine.opcodes.genkey f)
  | .sign f      => some (encodeFrame Machine.opcodes.sign f)
  | .verify f    => some (encodeFrame Machine.opcodes.verify f)
  | .read f      => some (encodeFrame Machine.opcodes.read f)
  | .write f     => some (encodeFrame Machine.opcodes.write f)
  | .lock f      => some (encodeFrame Machine.opcodes.lock f)
  | .info f      => some (encodeFrame Machine.opcodes.info f)
  | .unknown op f => some (encodeFrame op f)
  | .waCommand   => some [Machine.waCommandByte]
  | .waOther b   => some [b]
  | .init | .deliver _ | .take | .crc16 _ | .readZone _ _ _ | .writeZone _ _ _ | .lockConfig | .lockDataAndOtp
  | .isConfigLocked | .isDataAndOtpLocked | .storeKey _ _ _ | .generateKey _ _ | .computeCombine _ _ | .deriveChild _
  | .setState _ | .frame _ _ _ _ _ | .raw _ => none

/-- The frame that FRAME stands for: `L = 7 + n` for `n` payload bytes, the CRC byte last (R96). -/
def pseudoFrame (p1 : Byte) (p2 : Half) (payload : List Byte) (crc : Byte) : Frame :=
  ⟨BitVec.ofNat 8 (7 + payload.length), p1, p2, payload ++ [crc]⟩

/-- The `n` bytes of a word, the first the most significant: the opcode table numbers a frame's bytes so (log 27). -/
def wordBytes : Nat → Nat → List Byte
  | 0, _ => []
  | n + 1, w => BitVec.ofNat 8 (w / 256 ^ n) :: wordBytes n w

/-- The bytes of an instruction, those it has beyond the given ones being 0: a frame has at least its six fixed bytes and as many
as its declared length says. -/
def zeroPadded (bytes : List Byte) : List Byte :=
  bytes ++ List.replicate (max 6 (bytes.getD 1 0).toNat - bytes.length) 0

/-- The bytes a table word stands for: a Word Address is one byte, any wider word a bus write of so many bytes. -/
def tableBytes (nbits w : Nat) : List Byte :=
  if nbits ≤ 8 then [BitVec.ofNat 8 w] else zeroPadded (wordBytes (nbits / 8) w)

def decodeTableWord (nbits w : Nat) : Option Instr :=
  match decode (tableBytes nbits w) with
  | .ok (i, _) => some i
  | .error _   => none

end Sys2Proof
end

