-- ==== Sys2Proof/Machine/Memory.lean ====
section
/-! DEFINITION. The five memories (R34, R50) as lists of (address, byte) pairs in one canonical form, and the raw access to one
byte of one of them. -/

namespace Sys2Proof.Machine

/-- The five address spaces (R50). -/
inductive Space where
  | config
  | otp
  | data
  | command
  | response
  deriving DecidableEq, Repr

/-- How many bytes a space has (R34, R50). -/
def Space.size : Space → Nat
  | .config   => cfgSize
  | .otp      => otpSize
  | .data     => dataSize
  | .command  => bufSize
  | .response => bufSize

/-- What every byte of a space holds after INIT (R37), and so what an address with no entry reads as. The zones' values are
the source's, the buffers' the spec's decision D21 (log 4, log 29). -/
def Space.erased : Space → Byte
  | .config   => 0xFF
  | .otp      => 0x00
  | .data     => 0x00
  | .command  => 0x00
  | .response => 0x00

/-- A memory: the bytes that differ from the erased value, by rising address. -/
abbrev Memory := List Host.Cell

/-- The byte at `a`, where an address with no entry reads as `d`. -/
def Memory.read (d : Byte) : Memory → Nat → Byte
  | [], _ => d
  | (k, x) :: m, a => if k = a then x else Memory.read d m a

/-- Without the entry of `a`. -/
def Memory.erase : Memory → Nat → Memory
  | [], _ => []
  | (k, x) :: m, a => if k = a then Memory.erase m a else (k, x) :: Memory.erase m a

/-- With an entry in its place by rising address. -/
def Memory.insert (a : Nat) (v : Byte) : Memory → Memory
  | [] => [(a, v)]
  | (k, x) :: m => if a < k then (a, v) :: (k, x) :: m else (k, x) :: Memory.insert a v m

/-- `m[a] <- v`; writing the erased value removes the entry. -/
def Memory.write (d : Byte) (m : Memory) (a : Nat) (v : Byte) : Memory :=
  if v = d then Memory.erase m a else Memory.insert a v (Memory.erase m a)

/-- `m[a + k] <- v[k]` for every byte of `v` (R14). -/
def Memory.writeAll (d : Byte) : Memory → Nat → List Byte → Memory
  | m, _, [] => m
  | m, a, v :: vs => Memory.writeAll d (Memory.write d m a v) (a + 1) vs

/-- The canonical form: addresses strictly rising and inside the space, no entry equal to the erased value. -/
abbrev Memory.wf (sp : Space) (m : Memory) : Prop :=
  m.Pairwise (fun x y => x.1 < y.1) ∧ ∀ c ∈ m, c.1 < sp.size ∧ c.2 ≠ sp.erased

end Sys2Proof.Machine
end

