-- ==== Sys2Proof/Machine/State.lean ====
section
/-! DEFINITION. The state of the Device (10_state.md), the model's own inputs and outputs beside it, and the reasons a step can
stop. -/

namespace Sys2Proof.Machine

/-- What a step gives back (R16, R17, R278). -/
inductive Result where
  /-- Nothing: INIT, DELIVER, the lock operations, `setState`. -/
  | none
  /-- TAKE's byte (R188). -/
  | byte (b : Byte)
  /-- The token `Ok` (R16). -/
  | ok
  /-- The token `Error` (R16). -/
  | error
  /-- A byte sequence: `readZone`, `computeCombine`, `deriveChild`. -/
  | bytes (bs : List Byte)
  /-- A lock predicate's answer (R140, R141). -/
  | bool (b : Bool)
  /-- The value of `crc16` (R110). -/
  | word (w : Half)
  deriving DecidableEq, Repr

/-- What the last step showed the outside beside the status outputs: its result, and the mapper's lock output for a zone
request with a valid zone (R143). The MODEL's own (log 23). -/
structure Response where
  result     : Result
  zoneLocked : Option Bool
  deriving DecidableEq, Repr

/-- No result, and no zone request made. -/
def Response.quiet : Response := ⟨.none, Option.none⟩

/-- The Device: the five scalar registers of R21 and the five memories of R34; then the model's own fields. -/
structure State where
  /-- IDLE, SLEEP or ACTIVE (R28). -/
  state : DeviceState
  /-- The code of the most recent failure, 0 for none (R29). -/
  lastError : BitVec 8
  /-- Cursor into `commandPacket` (R24). -/
  packetPos : BitVec 8
  /-- Cursor into `responsePacket` (R25). -/
  responsePos : BitVec 8
  /-- Latency of the last known command (R30). -/
  executionTime : BitVec 32
  /-- Zone CONFIG, 128 bytes (R51). -/
  configZone : Memory
  /-- Zone OTP, 64 bytes (R52). -/
  otpZone : Memory
  /-- Zone DATA, 1024 bytes (R53). -/
  dataZone : Memory
  /-- The receive buffer, 128 bytes (R54). -/
  commandPacket : Memory
  /-- The transmit buffer, 128 bytes (R55). -/
  responsePacket : Memory
  /-- The MODEL's own: whether INIT has been issued (R301; log 3). -/
  initDone : Bool
  /-- The MODEL's own: the host's coming requests, the next one first (R278; log 2). -/
  requests : List Request
  /-- The MODEL's own: the draws the entropy input presents, the next one first (R9; log 1). -/
  entropyIn : List Bytes32
  /-- The MODEL's own: how many draws were taken (log 1). -/
  drawCount : Nat
  /-- The MODEL's own: what the last step gave back (log 23). -/
  response : Response
  deriving DecidableEq, Repr

/-- Why the machine would stop with a fault: never. "all surfaced via `lastError`, never via aborts", "no failure halts the
overall device" (R260; log 32). No constructor: nobody raises one. -/
inductive Fault where
  deriving DecidableEq, Repr

/-- Why a step has no meaning. -/
inductive Refusal where
  /-- Raised by an arm of `exec` whose instruction has no meaning yet; no arm raises it. Safe: nothing runs. -/
  | notModelled (mnemonic : String)
  /-- Raised by `step` for a request other than INIT before the first INIT: "The safe treatment is to refuse such a run"
  (R301, decision D26; log 3). Safe: the run has no meaning in the spec either. -/
  | beforeFirstInit
  deriving DecidableEq, Repr

/-- The machine right after reset, which is INIT, the one reset there is (R300): the values of R37. -/
def State.reset : State where
  state          := .idle
  lastError      := 0
  packetPos      := 0
  responsePos    := 0
  executionTime  := 0
  configZone     := []
  otpZone        := []
  dataZone       := []
  commandPacket  := []
  responsePacket := []
  initDone       := true
  requests       := []
  entropyIn      := []
  drawCount      := 0
  response       := .quiet

end Sys2Proof.Machine
end

