-- ==== Sys2Proof/Machine/Flags.lean ====
section
/-! DEFINITION. What the block has in the place of flags: the codes of `lastError` (R29, R91), the two lock predicates over bytes
of `configZone` (R27), the mapper's lock output (R143), the status outputs (R33). There are no condition codes (R26). Before
them, the access to a memory and to one byte of it. -/

namespace Sys2Proof.Machine

/-- The memory of a space. -/
def State.mem (s : State) : Space → Memory
  | .config   => s.configZone
  | .otp      => s.otpZone
  | .data     => s.dataZone
  | .command  => s.commandPacket
  | .response => s.responsePacket

/-- The state with one memory replaced. -/
def State.setMem (s : State) (sp : Space) (m : Memory) : State :=
  match sp with
  | .config   => { s with configZone := m }
  | .otp      => { s with otpZone := m }
  | .data     => { s with dataZone := m }
  | .command  => { s with commandPacket := m }
  | .response => { s with responsePacket := m }

/-- `space[a]` (R13). -/
def State.readByte (s : State) (sp : Space) (a : Nat) : Byte := Memory.read sp.erased (s.mem sp) a

/-- The five error conditions (R260). -/
inductive BlockError where
  | lengthTooLarge
  | invalidZone
  | outOfRange
  | unknownCommand
  | invalidSlot
  deriving DecidableEq, Repr

/-- The code of each (R91; R261 to R264, R266). -/
def BlockError.code : BlockError → BitVec 8
  | .lengthTooLarge => 1
  | .invalidZone    => 2
  | .outOfRange     => 3
  | .unknownCommand => 7
  | .invalidSlot    => 8

/-- `configLocked = (configZone[87] == 0x00)` (R27). -/
def State.configLocked (s : State) : Bool := s.readByte .config cfgLockOff == lockedByte

/-- `dataOtpLocked = (configZone[86] == 0x00)` (R27). -/
def State.dataOtpLocked (s : State) : Bool := s.readByte .config dataLockOff == lockedByte

/-- The memory a zone tag names (R89, R130). -/
def zoneSpace (zone : Byte) : Option Space :=
  if zone = zoneConfig then some .config
  else if zone = zoneOtp then some .otp
  else if zone = zoneData then some .data
  else none

/-- The lock flag that describes a space of the mapper (last column of R130's table). -/
def State.lockOf (s : State) : Space → Bool
  | .config => s.configLocked
  | .otp | .data | .command | .response => s.dataOtpLocked

/-- `zoneLocked(zone)`, shown "for each request with a valid zone" (R143, decision D16; log 19). -/
def State.zoneLocked (s : State) (zone : Byte) : Option Bool := (zoneSpace zone).map s.lockOf

/-- The five status outputs (R33). -/
structure Status where
  state         : BitVec 2
  lastError     : BitVec 8
  executionTime : BitVec 32
  configLocked  : Bool
  dataOtpLocked : Bool
  deriving DecidableEq, Repr

/-- "each a pure function of the state, read without side effect" (R33). -/
def State.status (s : State) : Status :=
  ⟨deviceStateCode s.state, s.lastError, s.executionTime, s.configLocked, s.dataOtpLocked⟩

end Sys2Proof.Machine
end

