-- ==== Sys2Proof/Machine/Ops.lean ====
section
/-! DEFINITION. The operations the meanings share: the memory primitives of R14, raising an error (R15), the draw (R9), the
latency record (R211), and what a step gives back (R16). -/

namespace Sys2Proof.Machine

/-- `MemRead(space, addr, n)` (R14): the bytes `space[addr .. addr+n-1]`. -/
def State.memRead (s : State) (sp : Space) (a n : Nat) : List Byte :=
  (List.range n).map fun k => s.readByte sp (a + k)

/-- `MemWrite(space, addr, n, v)` (R14): `space[addr + k] <- v[k]`, and nothing else. -/
def State.memWrite (s : State) (sp : Space) (a : Nat) (v : List Byte) : State :=
  s.setMem sp (Memory.writeAll sp.erased (s.mem sp) a v)

/-- `raise <Name>(code)` (R15, R265), the whole of what an error does: `lastError <- code`. It is not a trap: nothing is
saved, no mode changes, control goes nowhere; and there is nothing to return from (R270). The failure result of the operation
that raises is its own. -/
def State.raise (s : State) (e : BlockError) : State := { s with lastError := e.code }

/-- The bytes of the next draw: what the entropy input presents, and where it presents none a free value (R9; log 1). -/
def State.nextDraw (s : State) : Bytes32 := s.entropyIn.head?.getD (Config.freeDraw s.drawCount)

/-- The state once the draw is taken. -/
def State.tookDraw (s : State) : State := { s with entropyIn := s.entropyIn.tail, drawCount := s.drawCount + 1 }

/-- `executionTime <- latency(opcode)`, a plain overwrite; the unknown command has no latency and leaves it (R211). -/
def State.recordLatency (s : State) (c : Command) : State :=
  match latency c with
  | some t => { s with executionTime := t }
  | none   => s

/-- `packetPos <- v` (R13). -/
def State.setPacketPos (s : State) (v : BitVec 8) : State := { s with packetPos := v }

/-- `responsePos <- v` (R13). -/
def State.setResponsePos (s : State) (v : BitVec 8) : State := { s with responsePos := v }

/-- `state <- d` (R242). -/
def State.setDeviceState (s : State) (d : DeviceState) : State := { s with state := d }

/-- The state with this list of coming requests. -/
def State.withRequests (s : State) (rs : List Request) : State := { s with requests := rs }

/-- The start of a request: nothing given back yet. -/
def State.begin (s : State) : State := { s with response := .quiet }

/-- The result of a request. -/
def State.returns (s : State) (r : Result) : State := { s with response := { s.response with result := r } }

/-- The mapper shows the lock flag of the zone asked for (R143). -/
def State.showLock (s : State) (zone : Byte) : State :=
  { s with response := { s.response with zoneLocked := s.zoneLocked zone } }

/-- `-> Ok | Error` (R16). -/
def okOrError (ok : Bool) : Result := if ok then .ok else .error

/-- `-> bytes | Error` (R16). -/
def bytesOrError (r : Option (List Byte)) : Result := match r with
  | some bs => .bytes bs
  | none    => .error

/-- Whether the request at the head may run: before the first INIT only INIT may (R17, R301, R303; log 3). -/
def State.admits (s : State) (i : Instr) : Bool := s.initDone || decide (i = .init)

end Sys2Proof.Machine
end

