-- ==== Sys2Proof/Machine/Operands.lean ====
section
/-! DEFINITION. The operands: the fields of the frame in `commandPacket`, which are views of it and no registers (R22, R54, R84);
the zone mapper, which turns a zone, an address and a length into a place (R131); the address of a key slot (R160). -/

namespace Sys2Proof.Machine

/-- The Word Address, `commandPacket[0]` (R22, decision D9). -/
def State.wordAddress (s : State) : Byte := s.readByte .command 0

/-- The declared length `L = commandPacket[1]` (R22). -/
def State.declaredLength (s : State) : Byte := s.readByte .command 1

/-- `opcode = commandPacket[2]` (R22, R210). -/
def State.opcode (s : State) : Byte := s.readByte .command 2

/-- `param1 = commandPacket[3]` (R22, R210). -/
def State.param1 (s : State) : Byte := s.readByte .command 3

/-- `param2 = {commandPacket[5], commandPacket[4]}` (R22, R84). -/
def State.param2 (s : State) : Half := joinLE (s.readByte .command 4) (s.readByte .command 5)

/-- The whole receive buffer, which is what the dispatcher decodes (R54, R67, R210). -/
def State.frameBytes (s : State) : List Byte := s.memRead .command 0 bufSize

/-- What the mapper returns (R131): `Fault(code)` or `Hit(memory, address, length)`. -/
inductive Mapped where
  | reject (e : BlockError)
  | hit (sp : Space) (address length : Nat)
  deriving DecidableEq, Repr

/-- `mapZone` (R131): the zone, then the length, then the range (R132, decision D14; log 17); the sum does not wrap (R133,
decision D15; log 18). No translation: the index is the address itself. -/
def mapZone (zone : Byte) (address length : Nat) : Mapped :=
  match zoneSpace zone with
  | none => .reject .invalidZone
  | some sp =>
    if length > maxXfer then .reject .lengthTooLarge
    else if address + length > sp.size then .reject .outOfRange
    else .hit sp address length

/-- Where slot `slot` of the key store begins in the data zone (R53, R160). -/
def slotAddress (slot : Byte) : Nat := slotSize * slot.toNat

end Sys2Proof.Machine
end

