-- ==== Sys2Proof/Machine/Commands.lean ====
section
/-! DEFINITION. The Command Dispatcher (44_dispatch.md): what each command does when a completed frame is dispatched. The
meaning of a command constructor is the dispatcher's effect for it (log 24); the framer's part, storing the bytes and
returning the cursor to 0, is DELIVER's. No command reads an operand, `state`, a lock or a zone (R84, R210, R223). -/

namespace Sys2Proof.Machine

/-- `do_RANDOM` (R212): status byte, the 32 drawn bytes, the reply cursor to 0 (decision D11; log 14), latency. -/
def doRandom (s : State) : State :=
  ((s.tookDraw.memWrite .response 0 (randomStatus :: s.nextDraw.toList)).setResponsePos 0).recordLatency .random

/-- `do_NONCE` (R213): latency only. -/
def doNonce (s : State) : State := s.recordLatency .nonce
/-- `do_GENKEY` (R214): latency only; no key is generated. -/
def doGenkey (s : State) : State := s.recordLatency .genkey
/-- `do_SIGN` (R215): latency only. -/
def doSign (s : State) : State := s.recordLatency .sign
/-- `do_VERIFY` (R216): latency only. -/
def doVerify (s : State) : State := s.recordLatency .verify
/-- `do_READ` (R217): latency only; no zone is read. -/
def doRead (s : State) : State := s.recordLatency .read
/-- `do_WRITE` (R218): latency only; the payload is not written. -/
def doWrite (s : State) : State := s.recordLatency .write
/-- `do_LOCK` (R219): latency only; no lock byte is written. -/
def doLock (s : State) : State := s.recordLatency .lock
/-- `do_INFO` (R220): latency only. -/
def doInfo (s : State) : State := s.recordLatency .info
/-- `do_UNKNOWN` (R221, R264): `raise UnknownCommand(7)`, and nothing else; `executionTime` keeps its value (R211). -/
def doUnknown (s : State) : State := (s.recordLatency .unknown).raise .unknownCommand

/-- The effect of a command. -/
def runCommand : Command → State → State
  | .random,  s => doRandom s
  | .nonce,   s => doNonce s
  | .genkey,  s => doGenkey s
  | .sign,    s => doSign s
  | .verify,  s => doVerify s
  | .read,    s => doRead s
  | .write,   s => doWrite s
  | .lock,    s => doLock s
  | .info,    s => doInfo s
  | .unknown, s => doUnknown s

/-- `dispatch()` (R210): switch on the opcode in the buffer, stale or fresh (R222). The parameters are read by no command. -/
def dispatch (s : State) : State := runCommand (opcodes.command s.opcode) s

/-- RANDOM (R212). -/
def execRandom (_f : Frame) (s : State) : Host.Outcome State Fault Refusal := .next (doRandom s)
/-- NONCE (R213). -/
def execNonce (_f : Frame) (s : State) : Host.Outcome State Fault Refusal := .next (doNonce s)
/-- GENKEY (R214). -/
def execGenkey (_f : Frame) (s : State) : Host.Outcome State Fault Refusal := .next (doGenkey s)
/-- SIGN (R215). -/
def execSign (_f : Frame) (s : State) : Host.Outcome State Fault Refusal := .next (doSign s)
/-- VERIFY (R216). -/
def execVerify (_f : Frame) (s : State) : Host.Outcome State Fault Refusal := .next (doVerify s)
/-- READ (R217). -/
def execRead (_f : Frame) (s : State) : Host.Outcome State Fault Refusal := .next (doRead s)
/-- WRITE (R218). -/
def execWrite (_f : Frame) (s : State) : Host.Outcome State Fault Refusal := .next (doWrite s)
/-- LOCK (R219). -/
def execLock (_f : Frame) (s : State) : Host.Outcome State Fault Refusal := .next (doLock s)
/-- INFO (R220). -/
def execInfo (_f : Frame) (s : State) : Host.Outcome State Fault Refusal := .next (doInfo s)
/-- An unknown command (R221). -/
def execUnknown (_op : Byte) (_f : Frame) (s : State) : Host.Outcome State Fault Refusal := .next (doUnknown s)

end Sys2Proof.Machine
end

