-- ==== Sys2Proof/Machine/Crc.lean ====
section
/-! DEFINITION. The CRC Engine (40_crc.md): a pure function of its bytes, wired to nothing (R110, R116, R117). -/

namespace Sys2Proof.Machine

/-- `crc_bit` (R111): shift left by one, and XOR the polynomial in when the data bit and the old top bit differ. -/
def crcBit (reg : Half) (d : Bool) : Half :=
  let shifted := reg <<< 1
  if d != reg.msb then shifted ^^^ crcPoly else shifted

/-- One byte, its least significant bit first (R58, R112). -/
def crcByte (reg : Half) (b : Byte) : Half :=
  [0, 1, 2, 3, 4, 5, 6, 7].foldl (fun r k => crcBit r (b.getLsbD k)) reg

/-- The loop of R112 from a given register, `crc16_from` of R114. -/
def crcFrom (reg : Half) (bytes : List Byte) : Half := bytes.foldl crcByte reg

/-- The byte update of the reading that lost (R118). -/
def crcSketchByte (reg : Half) (b : Byte) : Half :=
  let r0 := (reg >>> 8) ||| (reg <<< 8)
  let r1 := r0 ^^^ b.setWidth 16
  let r2 := r1 ^^^ ((r1 &&& 0xFF) >>> 4)
  let r3 := r2 ^^^ (r2 <<< 12)
  r3 ^^^ ((r3 &&& 0xFF) <<< 5)

/-- `crc16` under each reading (R112, R118). -/
def crcUnder : CrcVariant → List Byte → Half
  | .bitSerial, bytes => crcFrom crcInit bytes
  | .sketched, bytes  => bytes.foldl crcSketchByte 0

/-- `crc16(bytes)` (R110, R112), at the reading the spec follows (decision D1; log 7). -/
def crc16 (bytes : List Byte) : Half := crcUnder crcVariant bytes

/-- `crc16(bytes) -> uint16` (R110): "reads no state and writes no state, not even `lastError`". -/
def execCrc16 (bytes : List Byte) (s : State) : Host.Outcome State Fault Refusal :=
  .next (s.begin.returns (.word (crc16 bytes)))

end Sys2Proof.Machine
end

