-- ==== Sys2Proof/Machine/Device.lean ====
section
/-! DEFINITION. The Device State Tracker (45_devstate.md): INIT, the one reset, and `setState`. -/

namespace Sys2Proof.Machine

/-- `INIT` (R241): every register and every byte of every memory at its value of R37. What belongs to the outside (the host's
coming requests, the entropy input) is not the block's to reset. -/
def initDevice (s : State) : State :=
  { s with
    state          := .idle
    lastError      := 0
    executionTime  := 0
    packetPos      := 0
    responsePos    := 0
    configZone     := []
    otpZone        := []
    dataZone       := []
    commandPacket  := []
    responsePacket := []
    initDone       := true }

/-- `INIT` (R241). -/
def execInit (s : State) : Host.Outcome State Fault Refusal := .next (initDevice s.begin)

/-- `setState(s)` (R242): "Every one of the nine transitions is allowed and does nothing but write the register"
(decision D20; log 21). -/
def execSetState (d : DeviceState) (s : State) : Host.Outcome State Fault Refusal := .next (s.begin.setDeviceState d)

end Sys2Proof.Machine
end

