-- ==== Sys2Proof/Machine/Framer.lean ====
section
/-! DEFINITION. The Packet Framer (43_framer.md): DELIVER, TAKE, and the first byte of a bus write. -/

namespace Sys2Proof.Machine

/-- Store, then advance (R182). -/
def State.store (s : State) (b : Byte) : State :=
  (s.memWrite .command s.packetPos.toNat [b]).setPacketPos (s.packetPos + 1)

/-- The frame-boundary test (R184): equality of the cursor with the declared length, counted from the marker (decision D5;
log 10). -/
def frameComplete (pos len : Byte) : Bool := pos == len

/-- With the byte stored and the cursor advanced: whether the frame is complete. The first byte is the Word Address (R183), a
write with another Word Address is never dispatched (R186), and the comparison is made from cursor 2 on (decision D7; log 12). -/
def State.atBoundary (t : State) : Bool :=
  t.packetPos != 1 && t.wordAddress == waCommandByte && frameComplete t.packetPos t.declaredLength

/-- `DELIVER(b)`, the framer's whole step (R182): a full buffer drops the byte (R187); any other byte is stored, the first at
index 0 (decision D6; log 11); a complete frame is dispatched inline, and the cursor returns to 0 whatever the dispatch did
(R185); a write with another Word Address only accumulates (decision D8; log 13). -/
def deliverByte (b : Byte) (s : State) : State :=
  if s.packetPos.toNat ≥ bufSize then s
  else
    let t := s.store b
    if t.atBoundary then (dispatch t).setPacketPos 0 else t

/-- Whether this DELIVER dispatches. -/
def dispatches (b : Byte) (s : State) : Bool :=
  decide (s.packetPos.toNat < bufSize) && (s.store b).atBoundary

/-- One DELIVER request: it gives nothing back. -/
def deliverStep (s : State) (b : Byte) : State := deliverByte b s.begin

/-- `DELIVER(b)` (R182). -/
def execDeliver (b : Byte) (s : State) : Host.Outcome State Fault Refusal := .next (deliverStep s b)

/-- The Word Address 03 (R183, R88): the byte that opens a command frame. In another state of the framer than
`AwaitingWordAddress` it is no Word Address and is received as any byte is (log 25). -/
def execWaCommand (s : State) : Host.Outcome State Fault Refusal := .next (deliverStep s waCommandByte)

/-- Any other Word Address (R186): its bytes accumulate and are never dispatched. -/
def execWaOther (b : Byte) (s : State) : Host.Outcome State Fault Refusal := .next (deliverStep s b)

/-- `TAKE -> byte` (R188): the byte at the reply cursor, which advances; 0 once the cursor is at the bound. -/
def execTake (s : State) : Host.Outcome State Fault Refusal :=
  if s.responsePos.toNat ≥ bufSize then .next (s.begin.returns (.byte 0x00))
  else .next ((s.begin.setResponsePos (s.responsePos + 1)).returns (.byte (s.readByte .response s.responsePos.toNat)))

/-- The receive side's resting states (R181). -/
inductive FramerState where
  | awaitingWordAddress
  | accumulatingFrame
  | accumulatingNonCommand
  deriving DecidableEq, Repr

/-- Each is a predicate on `packetPos` and `commandPacket[0]` (R181). -/
def State.framerState (s : State) : FramerState :=
  if s.packetPos = 0 then .awaitingWordAddress
  else if s.wordAddress = waCommandByte then .accumulatingFrame
  else .accumulatingNonCommand

end Sys2Proof.Machine
end

