-- ==== Sys2Proof/Machine/Zone.lean ====
section
/-! DEFINITION. The Zone Memory Model (41_zone.md): the checked read and write, the two lock operations, the two lock
predicates. None looks at `state`, and a lock gates nothing (R142, R244; log 19, log 21). -/

namespace Sys2Proof.Machine

/-- `readZone` as the operations that use it see it (R134): the bytes, or no bytes and `lastError` written. -/
def readZone (zone : Byte) (address length : Nat) (s : State) : Option (List Byte) × State :=
  match mapZone zone address length with
  | .reject e   => (none, (s.showLock zone).raise e)
  | .hit sp a n => (some (s.memRead sp a n), s.showLock zone)

/-- `writeZone` as the operations that use it see it (R135): whether it succeeded. Failure changes only `lastError` (R136). -/
def writeZone (zone : Byte) (address : Nat) (bytes : List Byte) (s : State) : Bool × State :=
  match mapZone zone address bytes.length with
  | .reject e   => (false, (s.showLock zone).raise e)
  | .hit sp a _ => (true, (s.showLock zone).memWrite sp a bytes)

/-- `readZone(zone, address, length) -> bytes | Error` (R134). -/
def execReadZone (zone : Byte) (address : Half) (length : Byte) (s : State) : Host.Outcome State Fault Refusal :=
  let r := readZone zone address.toNat length.toNat s.begin
  .next (r.2.returns (bytesOrError r.1))

/-- `writeZone(zone, address, bytes) -> Ok | Error` (R135). -/
def execWriteZone (zone : Byte) (address : Half) (bytes : List Byte) (s : State) : Host.Outcome State Fault Refusal :=
  let r := writeZone zone address.toNat bytes s.begin
  .next (r.2.returns (okOrError r.1))

/-- `lockConfig()` (R138): `configZone[87] <- 0x00`. -/
def execLockConfig (s : State) : Host.Outcome State Fault Refusal :=
  .next (s.begin.memWrite .config cfgLockOff [lockedByte])

/-- `lockDataAndOtp()` (R139): `configZone[86] <- 0x00`. -/
def execLockDataAndOtp (s : State) : Host.Outcome State Fault Refusal :=
  .next (s.begin.memWrite .config dataLockOff [lockedByte])

/-- `isConfigLocked() -> bool` (R140). -/
def execIsConfigLocked (s : State) : Host.Outcome State Fault Refusal :=
  .next (s.begin.returns (.bool s.configLocked))

/-- `isDataAndOtpLocked() -> bool` (R141). -/
def execIsDataAndOtpLocked (s : State) : Host.Outcome State Fault Refusal :=
  .next (s.begin.returns (.bool s.dataOtpLocked))

end Sys2Proof.Machine
end

