-- ==== Sys2Proof/Machine/KeyStore.lean ====
section
/-! DEFINITION. The Key Store (42_keystore.md): sixteen 32-byte slots in the data zone, with no state of its own (R160). The slot
is checked first, in all four operations (conflict C10, decision D17; log 20). -/

namespace Sys2Proof.Machine

/-- `storeKey` as `generateKey` sees it (R161): the slot check, then `writeZone` on zone DATA. -/
def storeKey (slot : Byte) (key : List Byte) (s : State) : Bool × State :=
  if slot.toNat ≥ slotCount then (false, s.raise .invalidSlot)
  else writeZone zoneData (slotAddress slot) key s

/-- The 32 bytes of a slot, or the failure (the first lines of R163 and R164). -/
def readSlot (slot : Byte) (s : State) : Option (List Byte) × State :=
  if slot.toNat ≥ slotCount then (none, s.raise .invalidSlot)
  else readZone zoneData (slotAddress slot) slotSize s

/-- `[ key[i] ^ message32[i] for i = 0 .. 31 ]` (R163). -/
def combineBytes (key : List Byte) (message : Bytes32) : List Byte :=
  List.zipWith (· ^^^ ·) key message.toList

/-- `[ parent[i] ^ (i + 1) for i = 0 .. 31 ]` (R164). -/
def childBytes (parent : List Byte) : List Byte :=
  List.zipWith (· ^^^ ·) parent ((List.range 32).map fun i => BitVec.ofNat 8 (i + 1))

/-- `storeKey(slotId, keyBytes, keyType) -> Ok | Error` (R161). `keyType` is ignored (R166, decision D27; log 22). -/
def execStoreKey (slot : Byte) (key : List Byte) (_keyType : Byte) (s : State) : Host.Outcome State Fault Refusal :=
  let r := storeKey slot key s.begin
  .next (r.2.returns (okOrError r.1))

/-- `generateKey(slotId, keyType) -> Ok | Error` (R162): the draw is taken before the slot is checked. -/
def execGenerateKey (slot : Byte) (_keyType : Byte) (s : State) : Host.Outcome State Fault Refusal :=
  let r := storeKey slot s.nextDraw.toList s.begin.tookDraw
  .next (r.2.returns (okOrError r.1))

/-- `computeCombine(slotId, message32) -> bytes32 | Error` (R163). -/
def execComputeCombine (slot : Byte) (message : Bytes32) (s : State) : Host.Outcome State Fault Refusal :=
  let r := readSlot slot s.begin
  .next (r.2.returns (bytesOrError (r.1.map fun key => combineBytes key message)))

/-- `deriveChild(parentSlotId) -> bytes32 | Error` (R164). It stores nothing. -/
def execDeriveChild (parent : Byte) (s : State) : Host.Outcome State Fault Refusal :=
  let r := readSlot parent s.begin
  .next (r.2.returns (bytesOrError (r.1.map childBytes)))

end Sys2Proof.Machine
end

