-- ==== Sys2Proof/Machine/Pseudo.lean ====
section
/-! DEFINITION. The pseudo-instructions FRAME and RAW (R96): so many DELIVERs, one after the other (log 26). -/

namespace Sys2Proof.Machine

/-- DELIVER of every byte, in order. -/
def deliverAll (bytes : List Byte) (s : State) : State := bytes.foldl deliverStep s

/-- The bytes of FRAME (R96). -/
def frameExpansion (op p1 : Byte) (p2 : Half) (payload : List Byte) (crc : Byte) : List Byte :=
  encodeFrame op (pseudoFrame p1 p2 payload crc)

/-- `FRAME op p1 p2 [payload...] crc` (R96). -/
def execFrame (op p1 : Byte) (p2 : Half) (payload : List Byte) (crc : Byte) (s : State) :
    Host.Outcome State Fault Refusal :=
  .next (deliverAll (frameExpansion op p1 p2 payload crc) s)

/-- `RAW b0 b1 ...` (R96). -/
def execRaw (bytes : List Byte) (s : State) : Host.Outcome State Fault Refusal := .next (deliverAll bytes s)

/-- The DELIVER requests of a byte sequence. -/
def deliverRequests (bytes : List Byte) : List Request := bytes.map Request.deliver

/-- The bytes of an encoding that a program line of that instruction delivers: of a frame with a completing length `L`, the `L`
bytes that R82 counts, and so for `L` from 2 to 5 not the fields that the encoding holds beyond them; every other encoding
whole. R95 has no such line: DESIGN CHOICE (log 34). -/
def lineBytes (bytes : List Byte) : List Byte :=
  match bytes with
  | _ :: len :: _ => if lengthCompletes len then bytes.take len.toNat else bytes
  | _ => bytes

/-- The requests a line of a program stands for (R95, R96). That a command or a Word Address is a line too, and stands for the
bytes of its encoding, is the model's choice: DESIGN CHOICE (log 34). -/
def requestsOf (i : Instr) : List Request :=
  if h : i.isRequest = true then [⟨i, h⟩]
  else match i with
    | .frame op p1 p2 payload crc => deliverRequests (frameExpansion op p1 p2 payload crc)
    | .raw bytes => deliverRequests bytes
    | i => deliverRequests (lineBytes ((encode i).getD []))

/-- The state with a program waiting at the host interface, behind what waits there already (log 2). -/
def State.load (program : List Instr) (s : State) : State :=
  { s with requests := s.requests ++ program.flatMap requestsOf }

/-- A completing length for a frame that is to run: its own, where the framer can complete it, else that of the six fixed bytes
(R83; log 27). -/
def runnableLength (len : Byte) : Byte := if lengthCompletes len then len else 6

/-- The state in which the next request completes the frame of these bytes: the buffer holds them, stale ones included, and the
cursor waits for the last (R182, R184). -/
def State.poiseFrame (s : State) (bytes : List Byte) : State :=
  let len := runnableLength (bytes.getD 1 0)
  let frame := (zeroPadded (bytes.set 1 len)).take (max 6 len.toNat)
  let t := s.memWrite .command 0 frame
  { t with
    packetPos := len - 1
    initDone  := true
    requests  := Request.deliver (frame.getD (len.toNat - 1) 0) :: s.requests }

/-- The state in which the next request is the first byte of a bus write. -/
def State.poiseFirstByte (s : State) (b : Byte) : State :=
  { s with packetPos := 0, initDone := true, requests := Request.deliver b :: s.requests }

/-- The state in which the next step runs the instruction at the head of these bytes. -/
def State.poise (s : State) : List Byte → State
  | [] => s
  | [b] => s.poiseFirstByte b
  | b :: rest => if b = waCommandByte then s.poiseFrame (b :: rest) else s.poiseFirstByte b

end Sys2Proof.Machine
end

