-- ==== Sys2Proof/Machine/Dispatch.lean ====
section
/-! DEFINITION. The meaning of each instruction, arm by arm. -/

namespace Sys2Proof.Machine

def exec (i : Instr) (s : State) : Host.Outcome State Fault Refusal :=
  match i with
  -- command frames
  | .random f => Sys2Proof.Machine.execRandom f s
  | .nonce f => Sys2Proof.Machine.execNonce f s
  | .genkey f => Sys2Proof.Machine.execGenkey f s
  | .sign f => Sys2Proof.Machine.execSign f s
  | .verify f => Sys2Proof.Machine.execVerify f s
  | .read f => Sys2Proof.Machine.execRead f s
  | .write f => Sys2Proof.Machine.execWrite f s
  | .lock f => Sys2Proof.Machine.execLock f s
  | .info f => Sys2Proof.Machine.execInfo f s
  | .unknown op f => Sys2Proof.Machine.execUnknown op f s
  -- Word Addresses
  | .waCommand => Sys2Proof.Machine.execWaCommand s
  | .waOther b => Sys2Proof.Machine.execWaOther b s
  -- primitives
  | .init => Sys2Proof.Machine.execInit s
  | .deliver b => Sys2Proof.Machine.execDeliver b s
  | .take => Sys2Proof.Machine.execTake s
  -- service operations
  | .crc16 bytes => Sys2Proof.Machine.execCrc16 bytes s
  | .readZone zone address length => Sys2Proof.Machine.execReadZone zone address length s
  | .writeZone zone address bytes => Sys2Proof.Machine.execWriteZone zone address bytes s
  | .lockConfig => Sys2Proof.Machine.execLockConfig s
  | .lockDataAndOtp => Sys2Proof.Machine.execLockDataAndOtp s
  | .isConfigLocked => Sys2Proof.Machine.execIsConfigLocked s
  | .isDataAndOtpLocked => Sys2Proof.Machine.execIsDataAndOtpLocked s
  | .storeKey slot key keyType => Sys2Proof.Machine.execStoreKey slot key keyType s
  | .generateKey slot keyType => Sys2Proof.Machine.execGenerateKey slot keyType s
  | .computeCombine slot message => Sys2Proof.Machine.execComputeCombine slot message s
  | .deriveChild parent => Sys2Proof.Machine.execDeriveChild parent s
  | .setState d => Sys2Proof.Machine.execSetState d s
  -- pseudo-instructions
  | .frame op param1 param2 payload crc => Sys2Proof.Machine.execFrame op param1 param2 payload crc s
  | .raw bytes => Sys2Proof.Machine.execRaw bytes s

end Sys2Proof.Machine
end

