-- ==== Sys2Proof/Machine/Step.lean ====
section
/-! DEFINITION. One step: the host's next request runs to completion (R7). -/

namespace Sys2Proof.Machine

/-- The request at the head of the host's list is taken off it and run; before the first INIT only INIT may run (R301; log 3).
With no request waiting the block does nothing: "the block does nothing until the host's next step" (R300; log 2). -/
def step (s : State) : Host.Outcome State Fault Refusal :=
  match s.requests with
  | [] => .next s
  | r :: rest => if s.admits r.val then exec r.val (s.withRequests rest) else .refused .beforeFirstInit

/-- The state with the instruction of a table word waiting: for a Word Address, its byte as the first of a bus write; for a
command frame, the receive buffer holding the frame and its last byte about to be delivered, so that the next step completes
the frame and the dispatcher runs the command (log 27). -/
def State.withFetchWord (s : State) (nbits w : Nat) : State := s.poise (tableBytes nbits w)

end Sys2Proof.Machine
end

