-- ==== Sys2Proof/Safety.lean ====
section
/-! DEFINITION. What counts as a legal Device, and the conditions of the framer that claims speak of. -/

namespace Sys2Proof.Machine

/-- Every memory has its canonical form; so no entry lies outside its space (R34, R50). -/
abbrev State.MemoriesWf (s : State) : Prop := ∀ sp, (s.mem sp).wf sp

/-- The values `lastError` ever has (R29, R267). -/
def legalErrors : List (BitVec 8) := [0, 1, 2, 3, 7, 8]

/-- The values `executionTime` ever has (R21, R38). -/
def legalTimes : List (BitVec 32) := [0, 1, 7, 23, 26, 32, 60, 72, 115]

/-- The invariants of every state reachable from INIT (R38), with R55's: no byte of the reply buffer beyond the reply is ever
written. -/
structure State.Inv (s : State) : Prop where
  memories      : s.MemoriesWf
  packetPos     : s.packetPos.toNat ≤ 128
  responsePos   : s.responsePos.toNat ≤ 128
  lastError     : s.lastError ∈ legalErrors
  executionTime : s.executionTime ∈ legalTimes
  /-- "a complete frame never rests: it was dispatched in the step that completed it". -/
  noRest        : 2 ≤ s.packetPos.toNat → s.readByte .command 0 = 0x03 → s.packetPos ≠ s.readByte .command 1
  /-- Nor has the cursor ever passed a length it could have met: a length at or below the cursor is 0 or 1 (R83, R311). -/
  notPassed     : 2 ≤ s.packetPos.toNat → s.readByte .command 0 = 0x03 →
    (s.readByte .command 1).toNat < 2 ∨ s.packetPos.toNat < (s.readByte .command 1).toNat
  replyBound    : ∀ a, 33 ≤ a → s.readByte .response a = 0x00

/-- The framer is wedged (R19, R311): a non-command write, or a command frame whose declared length the cursor has passed or
can never reach. -/
abbrev State.Wedged (s : State) : Prop :=
  1 ≤ s.packetPos.toNat ∧ (s.readByte .command 0 ≠ 0x03 ∨
    (2 ≤ s.packetPos.toNat ∧
      ((s.readByte .command 1).toNat ≤ s.packetPos.toNat ∨ 128 < (s.readByte .command 1).toNat)))

/-- So many steps, ending at the first that answers no next state (R17: a run is a finite sequence of steps). -/
def runSteps : Nat → State → Host.Outcome State Fault Refusal
  | 0, s => .next s
  | k + 1, s =>
    match step s with
    | .next t    => runSteps k t
    | .fault r   => .fault r
    | .refused r => .refused r

/-- A run that starts with INIT reaches this state. -/
inductive Reachable : State → Prop where
  | reset (requests : List Request) (entropy : List Bytes32) :
      Reachable { State.reset with requests := requests, entropyIn := entropy }
  | step (s t : State) : Reachable s → Machine.step s = .next t → Reachable t

end Sys2Proof.Machine
end

