-- ==== Sys2Proof/Certificates/Slice0/Obligations.lean ====
section
/-! DEFINITION. The statements for the provers. Each docstring names the rules of spec/ it rests on, and the spec's decision
(D of 92_eei_decisions.md) or log entry wherever it rests on a choice. -/

open Sys2Proof Sys2Proof.Machine

/-! ### Reset -/

/-- R37, R300: what State.reset holds, register by register and byte by byte. `state`, `lastError` and the zones are the
source's; the cursors, `executionTime` and both buffers are the spec's decision D21 (log 4). -/
def Obligations.ResetHoldsTheValuesOfInit : Prop :=
  State.reset.state = .idle ∧ State.reset.lastError = 0 ∧ State.reset.executionTime = 0 ∧
  State.reset.packetPos = 0 ∧ State.reset.responsePos = 0 ∧
  (∀ a, State.reset.readByte .config a = 0xFF) ∧ (∀ a, State.reset.readByte .otp a = 0x00) ∧
  (∀ a, State.reset.readByte .data a = 0x00) ∧ (∀ a, State.reset.readByte .command a = 0x00) ∧
  (∀ a, State.reset.readByte .response a = 0x00) ∧
  State.reset.configLocked = false ∧ State.reset.dataOtpLocked = false

/-- R241: INIT, from any state, leaves every register and every byte of the Device as reset has it; the host's coming requests
and the entropy input are the outside's and stay; and two INITs equal one. The values rest on decision D21 where R37 says so. -/
def Obligations.InitRestoresTheDevice : Prop :=
  ∀ s : State, ∃ t, exec .init s = .next t ∧
    t = { State.reset with requests := s.requests, entropyIn := s.entropyIn, drawCount := s.drawCount } ∧
    exec .init t = .next t

/-- R38, R55, R311: State.reset meets the invariant. -/
def Obligations.ResetMeetsTheInvariant : Prop := State.reset.Inv

/-- R38 (decisions D5 to D11): every step keeps the invariant: canonical memories, cursors within 128, legal codes and latencies, no complete frame at
rest and none that the cursor has passed, no reply byte beyond the 33rd. -/
def Obligations.StepKeepsTheInvariant : Prop :=
  ∀ s t : State, s.Inv → step s = .next t → t.Inv

/-- R38: so every state that any list of requests and any entropy leads to from INIT meets it. -/
def Obligations.EveryReachableStateMeetsTheInvariant : Prop :=
  ∀ s : State, Reachable s → s.Inv

/-! ### The step -/

/-- R7, R278, R300: once INIT was issued, a step takes the host's next request and runs it; with none waiting nothing changes
(the list of requests is the model's, log 2). -/
def Obligations.StepRunsTheNextRequest : Prop :=
  (∀ (s : State) (r : Request) (rest : List Request), s.initDone = true → s.requests = r :: rest →
    step s = exec r.val (s.withRequests rest)) ∧
  (∀ s : State, s.requests = [] → step s = .next s)

/-- R17, R301, R303 (decision D26; log 3): before the first INIT a step runs INIT and refuses every other request. -/
def Obligations.BeforeInitOnlyInitRuns : Prop :=
  ∀ (s : State) (r : Request) (rest : List Request), s.initDone = false → s.requests = r :: rest →
    step s = if r.val = .init then exec .init (s.withRequests rest) else .refused .beforeFirstInit

/-- R67, R185, R210 (decisions D5, D7): where the next request is the DELIVER of a frame's last byte, the bytes then in the
buffer decode to a well-formed command, and the step is that command's `exec` on the state with the byte stored, followed by
`packetPos <- 0`. -/
def Obligations.StepRunsTheDecodedCommand : Prop :=
  ∀ (s : State) (b : Byte) (rest : List Request), s.initDone = true → s.requests = Request.deliver b :: rest →
    dispatches b s = true →
    ∃ i more u, decode (((s.withRequests rest).begin.store b).memRead .command 0 128) = .ok (i, more) ∧
      i.WellFormed ∧ exec i ((s.withRequests rest).begin.store b) = .next u ∧
      step s = .next { u with packetPos := 0 }

/-- R88, R183, R186 (decisions D6, D8, D9): in `AwaitingWordAddress` the byte delivered decodes to a Word Address, DELIVER is that Word
Address's `exec`, and it stores the byte at index 0 and moves the cursor to 1, nothing else. -/
def Obligations.FirstByteRunsTheWordAddress : Prop :=
  ∀ (s : State) (b : Byte), s.packetPos = 0 → ∃ i t,
    decode [b] = .ok (i, []) ∧ i = (if b = 0x03 then .waCommand else .waOther b) ∧
    exec i s = .next t ∧ exec (.deliver b) s = .next t ∧
    t = { s with packetPos := 1, commandPacket := t.commandPacket, response := .quiet } ∧
    t.readByte .command 0 = b ∧ ∀ a, a ≠ 0 → t.readByte .command a = s.readByte .command a

/-- R182 (log 25): in every state the two Word Address instructions complete, and do what DELIVER of their byte does. -/
def Obligations.WordAddressesAreDeliveredBytes : Prop :=
  ∀ (s : State) (b : Byte), ∃ t u, exec (.deliver 0x03) s = .next t ∧ exec .waCommand s = .next t ∧
    exec (.deliver b) s = .next u ∧ exec (.waOther b) s = .next u

/-! ### Encodings -/

/-- R81, R84, R86, R88: decode of encode is the instruction, for every instruction with an encoding and every value of its
operands, any declared length included; and after any instruction but the bare marker the bytes that follow are left over. -/
def Obligations.DecodeOfEncodeIsTheInstruction : Prop :=
  ∀ (i : Instr) (bytes : List Byte), i.WellShaped → encode i = some bytes →
    decode bytes = .ok (i, []) ∧ (i ≠ .waCommand → ∀ more, decode (bytes ++ more) = .ok (i, more))

/-- R81, R87, R88: what the decoder accepts is the encoding of the well-shaped instruction it answers, followed by what it
leaves: no bit is dropped and no two instructions share bytes. -/
def Obligations.EncodeOfDecodeIsTheBytes : Prop :=
  ∀ (bytes more : List Byte) (i : Instr), decode bytes = .ok (i, more) →
    i.WellShaped ∧ ∃ own, encode i = some own ∧ own ++ more = bytes

/-- R81, R86, R88 and opcode_table.json: words written out from the spec's encodings decode to their instructions (opcode
numbers: decision D4, log 9; numbering of bits: log 27). Bytes 03 07 op 5A 34 12 EE: `param1` 0x5A, `param2` 0x1234. -/
def Obligations.WordsOfTheTableDecode : Prop :=
  decodeTableWord 56 0x03071B5A3412EE = some (.random ⟨7, 0x5A, 0x1234, [0xEE]⟩) ∧
  decodeTableWord 56 0x0307165A3412EE = some (.nonce ⟨7, 0x5A, 0x1234, [0xEE]⟩) ∧
  decodeTableWord 56 0x0307405A3412EE = some (.genkey ⟨7, 0x5A, 0x1234, [0xEE]⟩) ∧
  decodeTableWord 56 0x0307415A3412EE = some (.sign ⟨7, 0x5A, 0x1234, [0xEE]⟩) ∧
  decodeTableWord 56 0x0307455A3412EE = some (.verify ⟨7, 0x5A, 0x1234, [0xEE]⟩) ∧
  decodeTableWord 56 0x0307025A3412EE = some (.read ⟨7, 0x5A, 0x1234, [0xEE]⟩) ∧
  decodeTableWord 56 0x0307125A3412EE = some (.write ⟨7, 0x5A, 0x1234, [0xEE]⟩) ∧
  decodeTableWord 56 0x0307175A3412EE = some (.lock ⟨7, 0x5A, 0x1234, [0xEE]⟩) ∧
  decodeTableWord 56 0x0307305A3412EE = some (.info ⟨7, 0x5A, 0x1234, [0xEE]⟩) ∧
  decodeTableWord 56 0x0307AA5A3412EE = some (.unknown 0xAA ⟨7, 0x5A, 0x1234, [0xEE]⟩) ∧
  decodeTableWord 8 0x03 = some .waCommand ∧ decodeTableWord 8 0x00 = some (.waOther 0x00)

/-- R86, R87: for ANY nine pairwise distinct opcode bytes the decoder answers the command of each, and the unknown command for
every other byte; the model's nine are pairwise distinct. -/
def Obligations.OpcodeMapDecodesByName : Prop :=
  (∀ m : OpcodeMap, m.Distinct →
    (∀ c op, m.byteOf c = some op → m.command op = c) ∧ (∀ op, op ∉ m.bytes → m.command op = .unknown)) ∧
  opcodes.Distinct

/-! ### Commands -/

/-- R214 to R220: GENKEY, SIGN, VERIFY, READ, WRITE, LOCK and INFO, whatever the frame's fields, record their latency and change
nothing else; and the opcode byte of each name selects it. -/
def Obligations.LatencyOnlyCommandsRecordTheirLatency : Prop :=
  (∀ (f : Frame) (s : State),
    exec (.genkey f) s = .next { s with executionTime := 115 } ∧
    exec (.sign f) s = .next { s with executionTime := 60 } ∧
    exec (.verify f) s = .next { s with executionTime := 72 } ∧
    exec (.read f) s = .next { s with executionTime := 1 } ∧
    exec (.write f) s = .next { s with executionTime := 26 } ∧
    exec (.lock f) s = .next { s with executionTime := 32 } ∧
    exec (.info f) s = .next { s with executionTime := 1 }) ∧
  opcodes.command opcodes.genkey = .genkey ∧ opcodes.command opcodes.sign = .sign ∧
  opcodes.command opcodes.verify = .verify ∧ opcodes.command opcodes.read = .read ∧
  opcodes.command opcodes.write = .write ∧ opcodes.command opcodes.lock = .lock ∧
  opcodes.command opcodes.info = .info

/-- R213: NONCE records latency 7 and changes nothing else; that it leaves the reply alone is decision D12 (log 15). -/
def Obligations.NonceRecordsItsLatency : Prop :=
  ∀ (f : Frame) (s : State), exec (.nonce f) s = .next { s with executionTime := 7 }

/-- R212: RANDOM writes the status byte and the 32 drawn bytes to indices 0 to 32 of the reply buffer, moves the reply cursor to
0, records latency 23, takes one draw, and changes nothing else. The status value 0 and the cursor are decision D11 (log 14);
the draw is any 32 bytes (R9; log 1). -/
def Obligations.RandomBuildsTheReply : Prop :=
  ∀ (f : Frame) (s : State), ∃ t, exec (.random f) s = .next t ∧
    t.readByte .response 0 = 0x00 ∧ (∀ k : Fin 32, t.readByte .response (1 + k) = s.nextDraw[k]) ∧
    (∀ a, 33 ≤ a → t.readByte .response a = s.readByte .response a) ∧
    t = { s with responsePos := 0, executionTime := 23, responsePacket := t.responsePacket,
                 entropyIn := s.entropyIn.tail, drawCount := s.drawCount + 1 }

/-- R221, R264: an unknown command sets `lastError` to 7 and nothing else; that `executionTime` keeps its value is decision D13
(log 16). -/
def Obligations.UnknownCommandSetsSeven : Prop :=
  ∀ (op : Byte) (f : Frame) (s : State), exec (.unknown op f) s = .next { s with lastError := 7 }

/-! ### Status -/

/-- R33, R27: the five status outputs are functions of the state: `state` by its code (decision D19, log 6), `lastError`,
`executionTime`, and the two lock flags, each whether its lock byte is 0x00. -/
def Obligations.StatusOutputsShowTheState : Prop :=
  ∀ s : State,
    s.status.state = (match s.state with
      | .idle => 0
      | .sleep => 1
      | .active => 2) ∧
    s.status.lastError = s.lastError ∧ s.status.executionTime = s.executionTime ∧
    s.status.configLocked = (s.readByte .config 87 == 0x00) ∧
    s.status.dataOtpLocked = (s.readByte .config 86 == 0x00)

/-! ### Errors -/

/-- R265: raising an error writes its code to `lastError` and nothing else; the codes are R91's. -/
def Obligations.RaisingWritesTheCodeAlone : Prop :=
  ∀ (s : State) (e : BlockError), s.raise e = { s with lastError := e.code } ∧
    e.code = match e with
      | .lengthTooLarge => 1
      | .invalidZone    => 2
      | .outOfRange     => 3
      | .unknownCommand => 7
      | .invalidSlot    => 8

/-- R265, R136: a service operation that answers `Error` has written one of the codes 1, 2, 3, 8 and changed no other state of
the Device (a draw it took stays taken, decision D17); one that answers anything else has left `lastError` alone. -/
def Obligations.FailingOperationChangesOnlyLastError : Prop :=
  ∀ (i : Instr) (s t : State), i.isRequest = true → i ≠ .init → (∀ b, i ≠ .deliver b) → exec i s = .next t →
    (t.response.result = .error →
      t = { s with lastError := t.lastError, response := t.response, entropyIn := t.entropyIn, drawCount := t.drawCount } ∧
      t.lastError ∈ [(1 : BitVec 8), 2, 3, 8]) ∧
    (t.response.result ≠ .error → t.lastError = s.lastError)

/-- R136: after a failing `readZone` or `writeZone` only `lastError` differs (and what is given back). -/
def Obligations.FailedZoneRequestMutatesNothing : Prop :=
  ∀ (zone : Byte) (address : Half) (length : Byte) (bytes : List Byte) (s t : State),
    (exec (.readZone zone address length) s = .next t ∨ exec (.writeZone zone address bytes) s = .next t) →
    t.response.result = .error →
    t = { s with lastError := t.lastError, response := t.response } ∧ ∀ sp a, t.readByte sp a = s.readByte sp a

/-- R267: no instruction but INIT writes a value to `lastError` that is not one of the five codes, and INIT writes 0: so code 0
is written by INIT alone, and 4, 5, 6 and 9 to 255 by nothing. (Nor does any instruction but INIT clear it, R26, R245.) -/
def Obligations.LastErrorIsSticky : Prop :=
  (∀ (i : Instr) (s t : State), i ≠ .init → exec i s = .next t →
    t.lastError = s.lastError ∨ t.lastError ∈ [(1 : BitVec 8), 2, 3, 7, 8]) ∧
  (∀ s : State, ∃ t, exec .init s = .next t ∧ t.lastError = 0)

/-! ### The framer -/

/-- R182 (decisions D5 to D10): DELIVER completes in every state. It either dispatches, on the state with the byte stored, and
moves the cursor to 0; or stores the byte at the cursor and advances it; or, with 128 bytes in the buffer, drops it. -/
def Obligations.DeliverStoresDispatchesOrDrops : Prop :=
  ∀ (b : Byte) (s : State), ∃ t, exec (.deliver b) s = .next t ∧
    if dispatches b s then
      t = { dispatch (s.begin.store b) with packetPos := 0 } ∧
        (s.begin.store b).readByte .command s.packetPos.toNat = b
    else
      t = { s with packetPos := t.packetPos, commandPacket := t.commandPacket, response := .quiet } ∧
      (∀ a, a ≠ s.packetPos.toNat → t.readByte .command a = s.readByte .command a) ∧
      if s.packetPos.toNat < 128 then
        t.readByte .command s.packetPos.toNat = b ∧ t.packetPos.toNat = s.packetPos.toNat + 1
      else t.packetPos = s.packetPos ∧ t.commandPacket = s.commandPacket

/-- R191: the transition table of the receive side, row by row (it rests on decisions D5 to D8). -/
def Obligations.FramerTransitionTable : Prop :=
  ∀ (b : Byte) (s : State), ∃ t u, exec (.deliver b) s = .next t ∧ exec .init s = .next u ∧
    (s.framerState = .awaitingWordAddress →
      t.framerState = (if b = 0x03 then .accumulatingFrame else .accumulatingNonCommand) ∧
      t.packetPos = 1 ∧ dispatches b s = false) ∧
    (s.framerState = .accumulatingFrame → s.packetPos = 1 →
      if b = 2 then t.framerState = .awaitingWordAddress ∧ dispatches b s = true
      else t.framerState = .accumulatingFrame ∧ t.packetPos = 2 ∧ dispatches b s = false) ∧
    (s.framerState = .accumulatingFrame → 2 ≤ s.packetPos.toNat → s.packetPos.toNat ≤ 127 →
      if s.packetPos.toNat + 1 = s.declaredLength.toNat then
        t.framerState = .awaitingWordAddress ∧ dispatches b s = true
      else t.framerState = .accumulatingFrame ∧ t.packetPos.toNat = s.packetPos.toNat + 1 ∧ dispatches b s = false) ∧
    (s.framerState = .accumulatingFrame → s.packetPos.toNat = 128 → t = { s with response := .quiet }) ∧
    (s.framerState = .accumulatingNonCommand → s.packetPos.toNat ≤ 127 →
      t.framerState = .accumulatingNonCommand ∧ t.packetPos.toNat = s.packetPos.toNat + 1 ∧ dispatches b s = false) ∧
    (s.framerState = .accumulatingNonCommand → s.packetPos.toNat = 128 → t = { s with response := .quiet }) ∧
    u.framerState = .awaitingWordAddress

/-- R187: with `packetPos = 128` DELIVER changes nothing; a frame with L = 128 is not affected, its 128th byte completes it; the
full state is reached only by a non-command Word Address or by L in 0, 1 or above 128; and only INIT leaves it. The model's
choices in it, as the spec's decisions: no comparison is made on a dropped byte, D10 (log 13); nothing but INIT leaves the
state, D8 (log 13); what L = 128 counts, D5 (log 10). -/
def Obligations.FullBufferDropsEveryByte : Prop :=
  (∀ (b : Byte) (s : State), s.packetPos = 128 → exec (.deliver b) s = .next { s with response := .quiet }) ∧
  (∀ (b : Byte) (s : State), s.packetPos = 127 → s.readByte .command 0 = 0x03 → s.readByte .command 1 = 128 →
    dispatches b s = true ∧ ∃ t, exec (.deliver b) s = .next t ∧ t.packetPos = 0 ∧ t.readByte .command 127 = b) ∧
  (∀ (i : Instr) (s t : State), s.Inv → s.packetPos ≠ 128 → exec i s = .next t → t.packetPos = 128 →
    t.readByte .command 0 ≠ 0x03 ∨ t.readByte .command 1 = 0 ∨ t.readByte .command 1 = 1 ∨
      128 < (t.readByte .command 1).toNat) ∧
  (∀ (i : Instr) (s t : State), s.packetPos = 128 → i ≠ .init → exec i s = .next t → t.packetPos = 128)

/-- R188: TAKE gives the byte at the reply cursor and advances it, and gives 0 with the cursor unmoved once it is at the
128-byte bound; it changes nothing else. -/
def Obligations.TakeGivesTheNextReplyByte : Prop :=
  ∀ s : State, exec .take s = .next (
    if 128 ≤ s.responsePos.toNat then { s with response := ⟨.byte 0x00, none⟩ }
    else { s with responsePos := s.responsePos + 1,
                  response := ⟨.byte (s.readByte .response s.responsePos.toNat), none⟩ })

/-- R189: the two sides share nothing. TAKE and a DELIVER that dispatches no RANDOM give the same state in either order, what
TAKE gave back included; a DELIVER that dispatches RANDOM gives the same state with or without a TAKE before it. -/
def Obligations.TakeAndDeliverCommute : Prop :=
  ∀ (b : Byte) (s afterTake afterDeliver : State),
    exec .take s = .next afterTake → exec (.deliver b) s = .next afterDeliver →
    ((dispatches b s = true ∧ opcodes.command (s.begin.store b).opcode = .random) →
      exec (.deliver b) afterTake = .next afterDeliver) ∧
    (¬ (dispatches b s = true ∧ opcodes.command (s.begin.store b).opcode = .random) →
      ∃ t u, exec (.deliver b) afterTake = .next t ∧ exec .take afterDeliver = .next u ∧
        u.response = afterTake.response ∧ u = { t with response := afterTake.response })

/-- R311 (decision D8): a wedged framer stays wedged under every instruction but INIT, and a DELIVER to it changes nothing the
host can see: the buffer and its cursor at most. -/
def Obligations.WedgedFramerStaysWedged : Prop :=
  ∀ (i : Instr) (s t : State), s.Wedged → i ≠ .init → exec i s = .next t →
    t.Wedged ∧
    ((∃ b, i = .deliver b) →
      t = { s with packetPos := t.packetPos, commandPacket := t.commandPacket, response := .quiet })

/-- R19, R311 (decisions D5 to D8): wedged is exactly "no sequence of DELIVER steps reaches a dispatch", in every state. -/
def Obligations.WedgedIffNoDeliverDispatches : Prop :=
  ∀ s : State, s.Wedged ↔ ∀ (bytes : List Byte) (b : Byte), dispatches b (deliverAll bytes s) = false

/-- R311 (decisions D5 to D8): in a legal state the three patterns of the rule are the only ones that wedge. -/
def Obligations.ThreePatternsWedge : Prop :=
  ∀ s : State, s.Inv → (s.Wedged ↔
    1 ≤ s.packetPos.toNat ∧ (s.readByte .command 0 ≠ 0x03 ∨
      (2 ≤ s.packetPos.toNat ∧ (s.readByte .command 1 = 0 ∨ s.readByte .command 1 = 1 ∨
        128 < (s.readByte .command 1).toNat))))

/-- R222, R314 (decision D7): from `packetPos = 0` the two bytes 03 02 dispatch the command whose opcode lies in the buffer, and
the framer awaits the next frame. -/
def Obligations.LengthTwoRepeatsTheStaleOpcode : Prop :=
  ∀ s : State, s.packetPos = 0 → ∃ t u, exec (.raw [0x03, 0x02]) s = .next t ∧
    t = { runCommand (opcodes.command s.opcode) u with packetPos := 0 } ∧
    u = { s with packetPos := 2, commandPacket := u.commandPacket, response := .quiet } ∧
    u.readByte .command 0 = 0x03 ∧ u.readByte .command 1 = 0x02 ∧
    ∀ a, 2 ≤ a → u.readByte .command a = s.readByte .command a

/-- R96 (with R182 to R185, decisions D5 to D7): FRAME, from `packetPos = 0` and with a payload of at most 121 bytes, dispatches exactly once, on its
last byte, the command its opcode byte selects, with all its bytes in the buffer, and leaves `packetPos = 0`. -/
def Obligations.FrameDispatchesItsCommandOnce : Prop :=
  ∀ (op p1 : Byte) (p2 : Half) (payload : List Byte) (crc : Byte) (s : State),
    s.packetPos = 0 → payload.length ≤ 121 →
    let bytes : List Byte :=
      0x03 :: BitVec.ofNat 8 (7 + payload.length) :: op :: p1 :: lowByte p2 :: highByte p2 :: (payload ++ [crc])
    ∃ t u, exec (.frame op p1 p2 payload crc) s = .next t ∧
      t = { runCommand (opcodes.command op) u with packetPos := 0 } ∧
      u = { s with packetPos := BitVec.ofNat 8 (7 + payload.length), commandPacket := u.commandPacket, response := .quiet } ∧
      (∀ k b, bytes[k]? = some b → u.readByte .command k = b) ∧
      (∀ a, bytes.length ≤ a → u.readByte .command a = s.readByte .command a) ∧
      (∀ k b, bytes[k]? = some b → (dispatches b (deliverAll (bytes.take k) s) = true ↔ k = 6 + payload.length))

/-- R96: RAW and FRAME complete in every state. RAW is one DELIVER after another; FRAME is the RAW of its bytes 03, L, op, p1,
p2 low, p2 high, payload, crc with L = 7 + n. -/
def Obligations.RawAndFrameAreTheirDelivers : Prop :=
  (∀ s : State, exec (.raw []) s = .next s) ∧
  (∀ (b : Byte) (bytes : List Byte) (s : State), ∃ t u,
    exec (.deliver b) s = .next t ∧ exec (.raw bytes) t = .next u ∧ exec (.raw (b :: bytes)) s = .next u) ∧
  (∀ (op p1 : Byte) (p2 : Half) (payload : List Byte) (crc : Byte) (s : State), ∃ t,
    exec (.frame op p1 p2 payload crc) s = .next t ∧
    exec (.raw (0x03 :: BitVec.ofNat 8 (7 + payload.length) :: op :: p1 :: lowByte p2 :: highByte p2 ::
      (payload ++ [crc]))) s = .next t)

/-- R7, R96: the DELIVER requests that RAW stands for, run one a step, reach the state RAW's `exec` gives. -/
def Obligations.RawRequestsStepToItsMeaning : Prop :=
  ∀ (bytes : List Byte) (rest : List Request) (s t : State), s.initDone = true →
    exec (.raw bytes) (s.withRequests rest) = .next t →
    runSteps bytes.length (s.withRequests (deliverRequests bytes ++ rest)) = .next t

/-- R194, R185, R188, R212 (decisions D11, D21): end to end. From a legal state with the framer idle, a RANDOM frame with any
fields and then TAKE after TAKE: the first byte taken is the status 0, the next 32 are the draw, and every further byte is 0,
however many are taken. -/
def Obligations.RandomFrameIsReadBackByTakes : Prop :=
  ∀ (p1 : Byte) (p2 : Half) (payload : List Byte) (crc : Byte) (k : Nat) (rest : List Request) (s : State),
    s.Inv → s.initDone = true → s.packetPos = 0 → payload.length ≤ 121 →
    s.requests = deliverRequests (frameExpansion opcodes.random p1 p2 payload crc) ++
      List.replicate (k + 1) Request.take ++ rest →
    ∃ t, runSteps (7 + payload.length + (k + 1)) s = .next t ∧
      t.response.result = .byte ((0x00 :: s.nextDraw.toList).getD k 0x00) ∧ t.requests = rest

/-! ### Zones -/

/-- R130, R131, R133 (decisions D14, D15): the mapper. Tags 0, 1, 2 name memories of 128, 64 and 1024 bytes and no other tag
names one; a request is a hit exactly when its tag is valid, its length at most 32 and address + length, without wrap, at most
the size; the first failing check of zone, length, range gives the code. -/
def Obligations.MapperChecksZoneLengthRange : Prop :=
  ∀ (zone : Byte) (address length : Nat), mapZone zone address length =
    if 2 < zone.toNat then .reject .invalidZone
    else if 32 < length then .reject .lengthTooLarge
    else if zone = 0 then (if address + length ≤ 128 then .hit .config address length else .reject .outOfRange)
    else if zone = 1 then (if address + length ≤ 64 then .hit .otp address length else .reject .outOfRange)
    else (if address + length ≤ 1024 then .hit .data address length else .reject .outOfRange)

/-- R134, R143: `readZone` completes in every state. A hit gives an exact copy of the range and leaves `lastError`; a failing
check gives `Error` and its code (order and widths: decisions D14, D15); nothing else changes; for a valid zone the lock flag
that describes it is shown (decision D16). -/
def Obligations.ReadZoneCopiesTheRangeOrFails : Prop :=
  ∀ (zone : Byte) (address : Half) (length : Byte) (s : State), ∃ t,
    exec (.readZone zone address length) s = .next t ∧
    t = { s with lastError := t.lastError, response := t.response } ∧
    t.response.zoneLocked = (if zone = 0 then some s.configLocked
      else if zone.toNat ≤ 2 then some s.dataOtpLocked else none) ∧
    match mapZone zone address.toNat length.toNat with
    | .reject e => t.lastError = e.code ∧ t.response.result = .error
    | .hit sp a n => t.lastError = s.lastError ∧ ∃ bs, t.response.result = .bytes bs ∧ bs.length = n ∧
        ∀ k, k < n → bs[k]? = some (s.readByte sp (a + k))

/-- R135, R143: `writeZone` completes in every state. A hit overwrites the range in place, leaves every other byte of every
memory and `lastError`, locked or not (decision D16); a failing check gives `Error` and its code and changes nothing else
(order and widths: decisions D14, D15). For a valid zone the lock flag that describes it is shown (decision D16), as it was
BEFORE the write, even where the write covers the lock byte: that moment is the model's own choice (log 19). -/
def Obligations.WriteZoneOverwritesTheRangeOrFails : Prop :=
  ∀ (zone : Byte) (address : Half) (bytes : List Byte) (s : State), ∃ t,
    exec (.writeZone zone address bytes) s = .next t ∧
    t = { s with lastError := t.lastError, response := t.response,
                 configZone := t.configZone, otpZone := t.otpZone, dataZone := t.dataZone } ∧
    t.response.zoneLocked = (if zone = 0 then some s.configLocked
      else if zone.toNat ≤ 2 then some s.dataOtpLocked else none) ∧
    match mapZone zone address.toNat bytes.length with
    | .reject e => t.lastError = e.code ∧ t.response.result = .error ∧ ∀ sp a, t.readByte sp a = s.readByte sp a
    | .hit sp a n => t.lastError = s.lastError ∧ t.response.result = .ok ∧
        (∀ k b, bytes[k]? = some b → t.readByte sp (a + k) = b) ∧
        (∀ sp' x, ¬ (sp' = sp ∧ a ≤ x ∧ x < a + n) → t.readByte sp' x = s.readByte sp' x)

/-- R137 (decision D15): `writeZone` then `readZone` over the same range gives exactly the written bytes, for every zone and range, the lock
bytes included, whenever the write succeeds; and it succeeds exactly for the ranges of R133. -/
def Obligations.WriteThenReadRoundTrip : Prop :=
  ∀ (zone : Byte) (address : Half) (bytes : List Byte) (s t : State),
    exec (.writeZone zone address bytes) s = .next t →
    (t.response.result = .ok ↔ ∃ sp, mapZone zone address.toNat bytes.length = .hit sp address.toNat bytes.length) ∧
    (t.response.result = .ok → ∃ u, exec (.readZone zone address (BitVec.ofNat 8 bytes.length)) t = .next u ∧
      u.response.result = .bytes bytes)

/-- R138: `lockConfig`, in every state, writes 0x00 to config byte 87 and changes no other byte and no register; it is
idempotent; afterwards the config zone is locked. -/
def Obligations.LockConfigZeroesItsByte : Prop :=
  ∀ s : State, ∃ t, exec .lockConfig s = .next t ∧
    t = { s with configZone := t.configZone, response := .quiet } ∧ t.readByte .config 87 = 0x00 ∧
    t.configLocked = true ∧
    (∀ a, a ≠ 87 → t.readByte .config a = s.readByte .config a) ∧
    ∃ u, exec .lockConfig t = .next u ∧ ∀ sp a, u.readByte sp a = t.readByte sp a

/-- R139: `lockDataAndOtp`, config zone locked or not, writes 0x00 to config byte 86 and changes nothing else; it is
idempotent; afterwards the one flag of the DATA and the OTP zone is set, and the config zone's is as it was. -/
def Obligations.LockDataAndOtpZeroesItsByte : Prop :=
  ∀ s : State, ∃ t, exec .lockDataAndOtp s = .next t ∧
    t = { s with configZone := t.configZone, response := .quiet } ∧ t.readByte .config 86 = 0x00 ∧
    t.lockOf .data = true ∧ t.lockOf .otp = true ∧ t.configLocked = s.configLocked ∧
    (∀ a, a ≠ 86 → t.readByte .config a = s.readByte .config a) ∧
    ∃ u, exec .lockDataAndOtp t = .next u ∧ ∀ sp a, u.readByte sp a = t.readByte sp a

/-- R140, R141: the lock predicates answer whether the lock byte is 0x00, and change nothing. -/
def Obligations.LockPredicatesReadTheirBytes : Prop :=
  ∀ s : State,
    exec .isConfigLocked s = .next { s with response := ⟨.bool (s.readByte .config 87 == 0x00), none⟩ } ∧
    exec .isDataAndOtpLocked s = .next { s with response := ⟨.bool (s.readByte .config 86 == 0x00), none⟩ }

/-- R142, R144 (decision D16): a set lock flag is cleared by nothing but INIT and a `writeZone` on zone 0 whose range covers its
byte. -/
def Obligations.LocksAreClearedOnlyByInitOrConfigWrite : Prop :=
  ∀ (i : Instr) (s t : State), i ≠ .init → exec i s = .next t →
    (s.configLocked = true →
      (∀ a bytes, i = .writeZone 0 a bytes → ¬ (a.toNat ≤ 87 ∧ 87 < a.toNat + bytes.length)) → t.configLocked = true) ∧
    (s.dataOtpLocked = true →
      (∀ a bytes, i = .writeZone 0 a bytes → ¬ (a.toNat ≤ 86 ∧ 86 < a.toNat + bytes.length)) → t.dataOtpLocked = true)

/-- R50, R218, R243: nothing that comes over the bus (a delivered byte, TAKE, a command, a Word Address, a sequence of bytes)
reaches a zone or moves `state`. -/
def Obligations.TheBusReachesNoZone : Prop :=
  ∀ (i : Instr) (s t : State), (i.isRequest = false ∨ i = .take ∨ ∃ b, i = .deliver b) → exec i s = .next t →
    t.configZone = s.configZone ∧ t.otpZone = s.otpZone ∧ t.dataZone = s.dataZone ∧ t.state = s.state

/-- R24, R25, R50, R54, R55, R246: no service operation touches the bus side, nor `executionTime`. R24 and R25 name all that
writes the two cursors, R50, R54 and R55 all that writes the two buffers, R246 all that writes `executionTime`, and no service
operation is among them. -/
def Obligations.ServiceOperationsLeaveTheBusSide : Prop :=
  ∀ (i : Instr) (s t : State), i.isRequest = true → i ≠ .init → i ≠ .take → (∀ b, i ≠ .deliver b) →
    exec i s = .next t →
    t.commandPacket = s.commandPacket ∧ t.responsePacket = s.responsePacket ∧ t.packetPos = s.packetPos ∧
    t.responsePos = s.responsePos ∧ t.executionTime = s.executionTime

/-! ### Device state -/

/-- R242 (decision D20): `setState` writes `state`, any of the nine transitions, and nothing else. -/
def Obligations.SetStateWritesStateAlone : Prop :=
  ∀ (d : DeviceState) (s : State), exec (.setState d) s = .next { s with state := d, response := .quiet }

/-- R243 (decision D20): only INIT, to IDLE, and `setState` move `state`. -/
def Obligations.OnlyInitAndSetStateMoveState : Prop :=
  ∀ (i : Instr) (s t : State), exec i s = .next t →
    t.state = match i with
      | .init => .idle
      | .setState d => d
      | _ => s.state

/-- R223, R244 (decision D20): `state` gates nothing. Every instruction but INIT and `setState` does in every device state what
it does in any other, and gives back the same. -/
def Obligations.DeviceStateGatesNothing : Prop :=
  ∀ (i : Instr) (d : DeviceState) (s t : State), i ≠ .init → (∀ e, i ≠ .setState e) →
    exec i s = .next t → exec i { s with state := d } = .next { t with state := d }

/-! ### Key Store -/

/-- R160, R161, R166 (decisions D17, D27, D28): `storeKey` completes in every state, whatever the key type. A slot of 16 or more
gives code 8, else more than 32 bytes give code 1, and nothing is written; else the key's bytes go to the start of the slot,
data bytes 32 * slot on, and no other byte changes. -/
def Obligations.StoreKeyWritesItsSlot : Prop :=
  ∀ (slot : Byte) (key : List Byte) (keyType : Byte) (s : State), ∃ t,
    exec (.storeKey slot key keyType) s = .next t ∧
    t = { s with lastError := t.lastError, response := t.response, dataZone := t.dataZone } ∧
    if 16 ≤ slot.toNat then t.lastError = 8 ∧ t.response.result = .error ∧ t.dataZone = s.dataZone
    else if 32 < key.length then t.lastError = 1 ∧ t.response.result = .error ∧ t.dataZone = s.dataZone
    else t.lastError = s.lastError ∧ t.response.result = .ok ∧
      (∀ k b, key[k]? = some b → t.readByte .data (32 * slot.toNat + k) = b) ∧
      (∀ a, ¬ (32 * slot.toNat ≤ a ∧ a < 32 * slot.toNat + key.length) → t.readByte .data a = s.readByte .data a)

/-- R162 (decision D17): `generateKey` takes a draw, valid slot or not, and stores its 32 bytes as `storeKey` does. -/
def Obligations.GenerateKeyStoresADraw : Prop :=
  ∀ (slot : Byte) (keyType : Byte) (s : State), ∃ t,
    exec (.generateKey slot keyType) s = .next t ∧
    t = { s with lastError := t.lastError, response := t.response, dataZone := t.dataZone,
                 entropyIn := s.entropyIn.tail, drawCount := s.drawCount + 1 } ∧
    if 16 ≤ slot.toNat then t.lastError = 8 ∧ t.response.result = .error ∧ t.dataZone = s.dataZone
    else t.lastError = s.lastError ∧ t.response.result = .ok ∧
      (∀ k : Fin 32, t.readByte .data (32 * slot.toNat + k) = s.nextDraw[k]) ∧
      (∀ a, ¬ (32 * slot.toNat ≤ a ∧ a < 32 * slot.toNat + 32) → t.readByte .data a = s.readByte .data a)

/-- R163 (conflict C10, decision D17): `computeCombine` gives the byte-wise exclusive or of the slot's key and the message, or
code 8; it changes no memory. -/
def Obligations.ComputeCombineXorsKeyAndMessage : Prop :=
  ∀ (slot : Byte) (message : Bytes32) (s : State), ∃ t,
    exec (.computeCombine slot message) s = .next t ∧
    t = { s with lastError := t.lastError, response := t.response } ∧
    if 16 ≤ slot.toNat then t.lastError = 8 ∧ t.response.result = .error
    else t.lastError = s.lastError ∧ ∃ bs, t.response.result = .bytes bs ∧ bs.length = 32 ∧
      ∀ k : Fin 32, bs[k.val]? = some (s.readByte .data (32 * slot.toNat + k) ^^^ message[k])

/-- R164 (conflict C10, decision D17): `deriveChild` gives the parent's bytes, each exclusive or its index plus 1, or code 8; it
stores nothing. -/
def Obligations.DeriveChildXorsIndexes : Prop :=
  ∀ (parent : Byte) (s : State), ∃ t,
    exec (.deriveChild parent) s = .next t ∧
    t = { s with lastError := t.lastError, response := t.response } ∧
    if 16 ≤ parent.toNat then t.lastError = 8 ∧ t.response.result = .error
    else t.lastError = s.lastError ∧ ∃ bs, t.response.result = .bytes bs ∧ bs.length = 32 ∧
      ∀ k : Fin 32, bs[k.val]? = some (s.readByte .data (32 * parent.toNat + k) ^^^ BitVec.ofNat 8 (k + 1))

/-- R167: combining twice with the key unchanged gives the message back. -/
def Obligations.CombiningTwiceGivesTheMessageBack : Prop :=
  ∀ (slot : Byte) (message combined : Bytes32) (s t u : State), slot.toNat < 16 →
    exec (.computeCombine slot message) s = .next t → t.response.result = .bytes combined.toList →
    exec (.computeCombine slot combined) t = .next u → u.response.result = .bytes message.toList

/-! ### The CRC Engine -/

/-- R110: `crc16` gives back its value and changes nothing else, not even `lastError`. -/
def Obligations.Crc16AnswersAndChangesNothing : Prop :=
  ∀ (bytes : List Byte) (s : State),
    exec (.crc16 bytes) s = .next { s with response := ⟨.word (crc16 bytes), none⟩ }

/-- 95_test_vectors.md section 2: vectors of column A, the function of R111 and R112 (parameters: decision D1, log 7), and of
column B, the reading that lost (R118). -/
def Obligations.CrcVectors : Prop :=
  crc16 [] = 0x0000 ∧ crc16 [0x01] = 0x8303 ∧ crc16 [0x80] = 0x8005 ∧ crc16 [0xFF] = 0x0202 ∧
  crc16 [0x01, 0x00] = 0x8009 ∧ crc16 [0xA5, 0x5A] = 0xDFD6 ∧ crc16 [0x04, 0x11] = 0x4333 ∧
  crc16 [0x07, 0x30, 0x00, 0x00, 0x00] = 0x5D03 ∧
  crc16 [0x31, 0x32, 0x33, 0x34, 0x35, 0x36, 0x37, 0x38, 0x39] = 0xBCDD ∧
  crcUnder .sketched [0x31, 0x32, 0x33, 0x34, 0x35, 0x36, 0x37, 0x38, 0x39] = 0x31C3

/-- R114 (parameters: decision D1): leading zeros do not change the result, and the CRC of a concatenation continues from the
CRC of the first part. -/
def Obligations.CrcComposes : Prop :=
  (∀ (n : Nat) (m : List Byte), crc16 (List.replicate n 0x00 ++ m) = crc16 m) ∧
  (∀ a b : List Byte, crc16 (a ++ b) = crcFrom (crc16 a) b)

/-- R114 (parameters: decision D1): `crc16(a ^ b) = crc16(a) ^ crc16(b)` for equal lengths. -/
def Obligations.CrcIsLinear : Prop :=
  ∀ a b : List Byte, a.length = b.length → crc16 (List.zipWith (· ^^^ ·) a b) = crc16 a ^^^ crc16 b

/-- R114 (parameters: decision D1): any single-bit change of an input, of any length, changes the result. -/
def Obligations.CrcSeesEverySingleBit : Prop :=
  ∀ (a b : List Byte) (x : Byte) (k : Fin 8),
    crc16 (a ++ (x ^^^ BitVec.twoPow 8 k) :: b) ≠ crc16 (a ++ x :: b)
end

