-- ==== Sys2Proof/Laws/Decode.lean ====
section
/-! SUPPORT. The small lemmas of the decoder and the encoder. -/

namespace Sys2Proof

/-! `param2` and its two bytes (R84). -/

@[simp] theorem joinLE_lowByte_highByte (h : Half) : joinLE (lowByte h) (highByte h) = h := by
  unfold joinLE lowByte highByte
  ext i hi
  simp only [BitVec.getElem_or, BitVec.getElem_setWidth, BitVec.getElem_shiftLeft, BitVec.getLsbD_setWidth,
    BitVec.getLsbD_ushiftRight]
  by_cases h8 : i < 8
  · simp [h8, BitVec.getLsbD_eq_getElem hi]
  · have : 8 + (i - 8) = i := by omega
    simp [h8, this, BitVec.getLsbD_eq_getElem hi]
    omega

@[simp] theorem lowByte_joinLE (lo hi : Byte) : lowByte (joinLE lo hi) = lo := by
  unfold joinLE lowByte
  ext i hi
  simp

@[simp] theorem highByte_joinLE (lo hi : Byte) : highByte (joinLE lo hi) = hi := by
  unfold joinLE highByte
  ext i hi
  simp [BitVec.getLsbD_eq_getElem hi, show 8 + i < 16 by omega, show i < 16 by omega]

/-! The opcode byte (R86, R87). -/

/-- The command of a byte, where it is one of the nine, is that byte's. -/
theorem OpcodeMap.byteOf_command {m : OpcodeMap} {op o : Byte} (h : m.byteOf (m.command op) = some o) : op = o := by
  revert h
  unfold OpcodeMap.command
  split_ifs <;> intro h <;> simp_all [OpcodeMap.byteOf]

/-! The instruction of a frame. -/

theorem Frame.shapeDefect_eq_none {f : Frame} : f.shapeDefect = none ↔ f.tail.length = f.len.toNat - 6 := by
  unfold Frame.shapeDefect
  split <;> simp_all

/-- A frame of the declared length makes a well-shaped command, whatever its opcode (R81). -/
theorem commandInstr_wellShaped (op : Byte) {f : Frame} (h : f.tail.length = f.len.toNat - 6) :
    (commandInstr op f).WellShaped := by
  have hf := Frame.shapeDefect_eq_none.mpr h
  unfold commandInstr
  cases hc : Machine.opcodes.command op <;> simp [Instr.WellShaped, Instr.shapeDefect, hf, hc]

/-- Its bytes are the frame's. -/
theorem encode_commandInstr (op : Byte) (f : Frame) : encode (commandInstr op f) = some (encodeFrame op f) := by
  have key : ∀ c o, Machine.opcodes.command op = c → Machine.opcodes.byteOf c = some o → o = op := by
    rintro _ o rfl ho
    exact (OpcodeMap.byteOf_command ho).symm
  unfold commandInstr
  cases hc : Machine.opcodes.command op <;> simp only [encode] <;> congr 2 <;> exact key _ _ hc rfl

/-- What it does is the dispatcher's effect for its opcode (R210). -/
theorem Machine.exec_commandInstr (op : Byte) (f : Frame) (s : Machine.State) :
    Machine.exec (commandInstr op f) s = .next (Machine.runCommand (Machine.opcodes.command op) s) := by
  unfold commandInstr
  cases Machine.opcodes.command op <;> rfl

/-! The decoder. -/

/-- The marker with a byte after it opens a command frame (R81). -/
theorem decode_marker (b : Byte) (rest : List Byte) : decode (0x03 :: b :: rest) = decodeFrameBody (b :: rest) := rfl

/-- The bytes after the marker, where there are as many as the declared length says. -/
theorem decodeFrameBody_ok {len op p1 lo hi : Byte} {tail : List Byte} (h : len.toNat - 6 ≤ tail.length) :
    decodeFrameBody (len :: op :: p1 :: lo :: hi :: tail) =
      .ok (commandInstr op ⟨len, p1, joinLE lo hi, tail.take (len.toNat - 6)⟩, tail.drop (len.toNat - 6)) :=
  if_neg (Nat.not_lt.mpr h)

end Sys2Proof
end

