-- ==== Sys2Proof/Laws/Memory.lean ====
section
/-! SUPPORT. The laws of a memory: reading after writing, and that writing keeps the canonical form. -/

namespace Sys2Proof.Machine

@[simp] theorem Memory.read_nil (d : Byte) (a : Nat) : Memory.read d [] a = d := rfl

theorem Memory.read_erase_same (d : Byte) (m : Memory) (a : Nat) : Memory.read d (Memory.erase m a) a = d := by
  induction m with
  | nil => rfl
  | cons c m ih =>
    obtain ⟨k, x⟩ := c
    by_cases h : k = a <;> simp [Memory.erase, Memory.read, h, ih]

theorem Memory.read_erase_other (d : Byte) (m : Memory) {a b : Nat} (h : b ≠ a) :
    Memory.read d (Memory.erase m a) b = Memory.read d m b := by
  induction m with
  | nil => rfl
  | cons c m ih =>
    obtain ⟨k, x⟩ := c
    by_cases hk : k = a
    · simp [Memory.erase, Memory.read, hk, ih, Ne.symm h]
    · by_cases hb : k = b
      · subst hb; simp [Memory.erase, Memory.read, hk]
      · simp [Memory.erase, Memory.read, hk, hb, ih]

theorem Memory.read_insert_same (d : Byte) (m : Memory) (a : Nat) (v : Byte) (h : ∀ c ∈ m, c.1 ≠ a) :
    Memory.read d (Memory.insert a v m) a = v := by
  induction m with
  | nil => simp [Memory.insert, Memory.read]
  | cons c m ih =>
    obtain ⟨k, x⟩ := c
    have hk : k ≠ a := h (k, x) (by simp)
    by_cases hlt : a < k
    · simp [Memory.insert, Memory.read, hlt]
    · simp [Memory.insert, Memory.read, hlt, hk, ih fun c hc => h c (by simp [hc])]

theorem Memory.read_insert_other (d : Byte) (m : Memory) {a b : Nat} (v : Byte) (h : b ≠ a) :
    Memory.read d (Memory.insert a v m) b = Memory.read d m b := by
  induction m with
  | nil => simp [Memory.insert, Memory.read, Ne.symm h]
  | cons c m ih =>
    obtain ⟨k, x⟩ := c
    by_cases hlt : a < k
    · simp [Memory.insert, Memory.read, hlt, Ne.symm h]
    · by_cases hb : k = b
      · subst hb; simp [Memory.insert, Memory.read, hlt]
      · simp [Memory.insert, Memory.read, hlt, hb, ih]

theorem Memory.mem_erase {m : Memory} {a : Nat} {c : Host.Cell} (h : c ∈ Memory.erase m a) : c ∈ m ∧ c.1 ≠ a := by
  induction m with
  | nil => simp [Memory.erase] at h
  | cons e m ih =>
    obtain ⟨k, x⟩ := e
    by_cases hk : k = a
    · simp only [Memory.erase, hk, if_true] at h
      exact ⟨List.mem_cons_of_mem _ (ih h).1, (ih h).2⟩
    · simp only [Memory.erase, hk, if_false, List.mem_cons] at h
      rcases h with rfl | h
      · exact ⟨by simp, hk⟩
      · exact ⟨List.mem_cons_of_mem _ (ih h).1, (ih h).2⟩

theorem Memory.mem_insert {m : Memory} {a : Nat} {v : Byte} {c : Host.Cell} (h : c ∈ Memory.insert a v m) :
    c = (a, v) ∨ c ∈ m := by
  induction m with
  | nil => simpa [Memory.insert] using h
  | cons e m ih =>
    obtain ⟨k, x⟩ := e
    by_cases hlt : a < k
    · simpa [Memory.insert, hlt] using h
    · simp only [Memory.insert, hlt, if_false, List.mem_cons] at h
      rcases h with rfl | h
      · simp
      · rcases ih h with h | h <;> simp [h]

/-- Reading back what was written. -/
theorem Memory.read_write_same (d : Byte) (m : Memory) (a : Nat) (v : Byte) :
    Memory.read d (Memory.write d m a v) a = v := by
  unfold Memory.write
  split
  · next h => rw [Memory.read_erase_same, h]
  · exact Memory.read_insert_same d _ a v fun c hc => (Memory.mem_erase hc).2

/-- A write leaves every other address alone. -/
theorem Memory.read_write_other (d : Byte) (m : Memory) {a b : Nat} (v : Byte) (h : b ≠ a) :
    Memory.read d (Memory.write d m a v) b = Memory.read d m b := by
  unfold Memory.write
  split
  · exact Memory.read_erase_other d m h
  · rw [Memory.read_insert_other d _ v h, Memory.read_erase_other d m h]

/-- Reading after writing a sequence: the byte of the sequence inside its range, the old byte outside. -/
theorem Memory.read_writeAll (d : Byte) (m : Memory) (a : Nat) (vs : List Byte) (b : Nat) :
    Memory.read d (Memory.writeAll d m a vs) b =
      if a ≤ b ∧ b < a + vs.length then vs.getD (b - a) 0 else Memory.read d m b := by
  induction vs generalizing m a with
  | nil => simp only [Memory.writeAll, List.length_nil]; rw [if_neg (by omega)]
  | cons v vs ih =>
    rw [Memory.writeAll, ih]
    rcases Nat.lt_trichotomy b a with h | h | h
    · rw [if_neg (by omega), if_neg (by omega), Memory.read_write_other d m v (by omega)]
    · subst h
      rw [if_neg (by omega), if_pos (by simp), Memory.read_write_same]
      simp
    · have e : b - a = (b - (a + 1)) + 1 := by omega
      by_cases hb : b < a + 1 + vs.length
      · rw [if_pos (by omega), if_pos (by simp; omega), e, List.getD_cons_succ]
      · rw [if_neg (by omega), if_neg (by simp; omega), Memory.read_write_other d m v (by omega)]

theorem Memory.erase_sublist (m : Memory) (a : Nat) : (Memory.erase m a).Sublist m := by
  induction m with
  | nil => exact List.Sublist.slnil
  | cons c m ih =>
    obtain ⟨k, x⟩ := c
    by_cases h : k = a
    · simpa [Memory.erase, h] using ih.cons (k, x)
    · simpa [Memory.erase, h] using ih.cons_cons (k, x)

theorem Memory.insert_sorted {m : Memory} {a : Nat} {v : Byte} (h : m.Pairwise fun x y => x.1 < y.1)
    (ha : ∀ c ∈ m, c.1 ≠ a) : (Memory.insert a v m).Pairwise fun x y => x.1 < y.1 := by
  induction m with
  | nil => simp [Memory.insert]
  | cons c m ih =>
    obtain ⟨k, x⟩ := c
    have hk : k ≠ a := ha (k, x) (by simp)
    rw [List.pairwise_cons] at h
    by_cases hlt : a < k
    · simp only [Memory.insert, hlt, if_true, List.pairwise_cons, List.mem_cons]
      refine ⟨?_, h.1, h.2⟩
      rintro c (rfl | hc)
      · exact hlt
      · exact Nat.lt_trans hlt (h.1 c hc)
    · simp only [Memory.insert, hlt, if_false, List.pairwise_cons]
      refine ⟨fun c hc => ?_, ih h.2 fun c hc => ha c (by simp [hc])⟩
      rcases Memory.mem_insert hc with rfl | hc
      · show k < a
        omega
      · exact h.1 c hc

@[simp] theorem Memory.wf_nil (sp : Space) : Memory.wf sp [] := by simp [Memory.wf]

/-- A write inside the space keeps the canonical form. -/
theorem Memory.wf_write {sp : Space} {m : Memory} {a : Nat} (v : Byte) (h : Memory.wf sp m) (ha : a < sp.size) :
    Memory.wf sp (Memory.write sp.erased m a v) := by
  obtain ⟨hs, hc⟩ := h
  have es := hs.sublist (Memory.erase_sublist m a)
  unfold Memory.write
  split
  · exact ⟨es, fun c hm => hc c (Memory.mem_erase hm).1⟩
  · next hv =>
    refine ⟨Memory.insert_sorted es fun c hm => (Memory.mem_erase hm).2, fun c hm => ?_⟩
    rcases Memory.mem_insert hm with rfl | hm
    · exact ⟨ha, hv⟩
    · exact hc c (Memory.mem_erase hm).1

/-- So does a sequence of writes inside the space. -/
theorem Memory.wf_writeAll {sp : Space} {m : Memory} {a : Nat} {vs : List Byte} (h : Memory.wf sp m)
    (ha : a + vs.length ≤ sp.size) : Memory.wf sp (Memory.writeAll sp.erased m a vs) := by
  induction vs generalizing m a with
  | nil => exact h
  | cons v vs ih =>
    simp only [List.length_cons] at ha
    exact ih (Memory.wf_write v h (by omega)) (by omega)

theorem Memory.read_absent (d : Byte) (m : Memory) (a : Nat) (h : ∀ c ∈ m, c.1 ≠ a) : Memory.read d m a = d := by
  induction m with
  | nil => rfl
  | cons c m ih =>
    obtain ⟨k, x⟩ := c
    have hk : k ≠ a := h (k, x) (by simp)
    simp [Memory.read, hk, ih fun c hc => h c (by simp [hc])]

/-- Equal memories are equal data: two canonical memories that read alike everywhere are one list. -/
theorem Memory.ext_of_wf {sp : Space} {m n : Memory} (hm : Memory.wf sp m) (hn : Memory.wf sp n)
    (h : ∀ a, Memory.read sp.erased m a = Memory.read sp.erased n a) : m = n := by
  induction m generalizing n with
  | nil =>
    cases n with
    | nil => rfl
    | cons c n =>
      obtain ⟨k, x⟩ := c
      have := h k
      simp only [Memory.read, if_true] at this
      exact absurd this.symm (hn.2 (k, x) (by simp)).2
  | cons c m ih =>
    obtain ⟨k, x⟩ := c
    cases n with
    | nil =>
      have := h k
      simp only [Memory.read, if_true] at this
      exact absurd this (hm.2 (k, x) (by simp)).2
    | cons e n =>
      obtain ⟨j, y⟩ := e
      obtain ⟨sm, cm⟩ := hm
      obtain ⟨sn, cn⟩ := hn
      rw [List.pairwise_cons] at sm sn
      have below : ∀ {l : Memory} {p q : Nat}, (∀ c ∈ l, p < c.1) → q ≤ p → ∀ c ∈ l, c.1 ≠ q :=
        fun hl hq c hc => by have := hl c hc; omega
      have hkj : k = j := by
        rcases Nat.lt_trichotomy k j with hlt | heq | hlt
        · have := h k
          simp only [Memory.read, if_true, if_neg (show j ≠ k by omega)] at this
          rw [Memory.read_absent _ n k (below sn.1 (by simp; omega))] at this
          exact absurd this (cm (k, x) (by simp)).2
        · exact heq
        · have := h j
          simp only [Memory.read, if_true, if_neg (show k ≠ j by omega)] at this
          rw [Memory.read_absent _ m j (below sm.1 (by simp; omega))] at this
          exact absurd this.symm (cn (j, y) (by simp)).2
      subst hkj
      have hxy : x = y := by simpa [Memory.read] using h k
      subst hxy
      congr 1
      refine ih ⟨sm.2, fun c hc => cm c (by simp [hc])⟩ ⟨sn.2, fun c hc => cn c (by simp [hc])⟩ fun a => ?_
      by_cases ha : k = a
      · subst ha
        rw [Memory.read_absent _ m k (below sm.1 (Nat.le_refl _)), Memory.read_absent _ n k (below sn.1 (Nat.le_refl _))]
      · simpa [Memory.read, ha] using h a

end Sys2Proof.Machine
end

