-- ==== Sys2Proof/Laws/State.lean ====
section
/-! SUPPORT. The small lemmas of State: what each named update leaves of each field, and which memory it leaves alone. -/

namespace Sys2Proof

@[simp] theorem Request.deliver_val (b : Byte) : (Request.deliver b).val = .deliver b := rfl
@[simp] theorem Request.take_val : Request.take.val = .take := rfl

end Sys2Proof

namespace Sys2Proof.Machine

/-! One memory replaced. -/

@[simp] theorem State.setMem_state (s : State) (sp : Space) (m : Memory) : (s.setMem sp m).state = s.state := by cases sp <;> rfl
@[simp] theorem State.setMem_lastError (s : State) (sp : Space) (m : Memory) : (s.setMem sp m).lastError = s.lastError := by cases sp <;> rfl
@[simp] theorem State.setMem_packetPos (s : State) (sp : Space) (m : Memory) : (s.setMem sp m).packetPos = s.packetPos := by cases sp <;> rfl
@[simp] theorem State.setMem_responsePos (s : State) (sp : Space) (m : Memory) : (s.setMem sp m).responsePos = s.responsePos := by cases sp <;> rfl
@[simp] theorem State.setMem_executionTime (s : State) (sp : Space) (m : Memory) : (s.setMem sp m).executionTime = s.executionTime := by cases sp <;> rfl
@[simp] theorem State.setMem_initDone (s : State) (sp : Space) (m : Memory) : (s.setMem sp m).initDone = s.initDone := by cases sp <;> rfl
@[simp] theorem State.setMem_requests (s : State) (sp : Space) (m : Memory) : (s.setMem sp m).requests = s.requests := by cases sp <;> rfl
@[simp] theorem State.setMem_entropyIn (s : State) (sp : Space) (m : Memory) : (s.setMem sp m).entropyIn = s.entropyIn := by cases sp <;> rfl
@[simp] theorem State.setMem_drawCount (s : State) (sp : Space) (m : Memory) : (s.setMem sp m).drawCount = s.drawCount := by cases sp <;> rfl
@[simp] theorem State.setMem_response (s : State) (sp : Space) (m : Memory) : (s.setMem sp m).response = s.response := by cases sp <;> rfl

@[simp] theorem State.mem_setMem_same (s : State) (sp : Space) (m : Memory) : (s.setMem sp m).mem sp = m := by
  cases sp <;> rfl

theorem State.mem_setMem_other (s : State) {sp sp' : Space} (m : Memory) (h : sp' ≠ sp) :
    (s.setMem sp m).mem sp' = s.mem sp' := by
  cases sp <;> cases sp' <;> first | rfl | exact absurd rfl h

/-- Replacing one memory is replacing its field. -/
theorem State.setMem_eq (s : State) (m : Memory) :
    s.setMem .config m = { s with configZone := m } ∧ s.setMem .otp m = { s with otpZone := m } ∧
    s.setMem .data m = { s with dataZone := m } ∧ s.setMem .command m = { s with commandPacket := m } ∧
    s.setMem .response m = { s with responsePacket := m } := ⟨rfl, rfl, rfl, rfl, rfl⟩

/-! `raise`. -/

@[simp] theorem State.raise_state (s : State) (e : BlockError) : (s.raise e).state = s.state := rfl
@[simp] theorem State.raise_lastError (s : State) (e : BlockError) : (s.raise e).lastError = e.code := rfl
@[simp] theorem State.raise_packetPos (s : State) (e : BlockError) : (s.raise e).packetPos = s.packetPos := rfl
@[simp] theorem State.raise_responsePos (s : State) (e : BlockError) : (s.raise e).responsePos = s.responsePos := rfl
@[simp] theorem State.raise_executionTime (s : State) (e : BlockError) : (s.raise e).executionTime = s.executionTime := rfl
@[simp] theorem State.raise_configZone (s : State) (e : BlockError) : (s.raise e).configZone = s.configZone := rfl
@[simp] theorem State.raise_otpZone (s : State) (e : BlockError) : (s.raise e).otpZone = s.otpZone := rfl
@[simp] theorem State.raise_dataZone (s : State) (e : BlockError) : (s.raise e).dataZone = s.dataZone := rfl
@[simp] theorem State.raise_commandPacket (s : State) (e : BlockError) : (s.raise e).commandPacket = s.commandPacket := rfl
@[simp] theorem State.raise_responsePacket (s : State) (e : BlockError) : (s.raise e).responsePacket = s.responsePacket := rfl
@[simp] theorem State.raise_initDone (s : State) (e : BlockError) : (s.raise e).initDone = s.initDone := rfl
@[simp] theorem State.raise_requests (s : State) (e : BlockError) : (s.raise e).requests = s.requests := rfl
@[simp] theorem State.raise_entropyIn (s : State) (e : BlockError) : (s.raise e).entropyIn = s.entropyIn := rfl
@[simp] theorem State.raise_drawCount (s : State) (e : BlockError) : (s.raise e).drawCount = s.drawCount := rfl
@[simp] theorem State.raise_response (s : State) (e : BlockError) : (s.raise e).response = s.response := rfl

/-! `tookDraw`. -/

@[simp] theorem State.tookDraw_state (s : State) : (s.tookDraw).state = s.state := rfl
@[simp] theorem State.tookDraw_lastError (s : State) : (s.tookDraw).lastError = s.lastError := rfl
@[simp] theorem State.tookDraw_packetPos (s : State) : (s.tookDraw).packetPos = s.packetPos := rfl
@[simp] theorem State.tookDraw_responsePos (s : State) : (s.tookDraw).responsePos = s.responsePos := rfl
@[simp] theorem State.tookDraw_executionTime (s : State) : (s.tookDraw).executionTime = s.executionTime := rfl
@[simp] theorem State.tookDraw_configZone (s : State) : (s.tookDraw).configZone = s.configZone := rfl
@[simp] theorem State.tookDraw_otpZone (s : State) : (s.tookDraw).otpZone = s.otpZone := rfl
@[simp] theorem State.tookDraw_dataZone (s : State) : (s.tookDraw).dataZone = s.dataZone := rfl
@[simp] theorem State.tookDraw_commandPacket (s : State) : (s.tookDraw).commandPacket = s.commandPacket := rfl
@[simp] theorem State.tookDraw_responsePacket (s : State) : (s.tookDraw).responsePacket = s.responsePacket := rfl
@[simp] theorem State.tookDraw_initDone (s : State) : (s.tookDraw).initDone = s.initDone := rfl
@[simp] theorem State.tookDraw_requests (s : State) : (s.tookDraw).requests = s.requests := rfl
@[simp] theorem State.tookDraw_entropyIn (s : State) : (s.tookDraw).entropyIn = s.entropyIn.tail := rfl
@[simp] theorem State.tookDraw_drawCount (s : State) : (s.tookDraw).drawCount = s.drawCount + 1 := rfl
@[simp] theorem State.tookDraw_response (s : State) : (s.tookDraw).response = s.response := rfl

/-! `begin`. -/

@[simp] theorem State.begin_state (s : State) : (s.begin).state = s.state := rfl
@[simp] theorem State.begin_lastError (s : State) : (s.begin).lastError = s.lastError := rfl
@[simp] theorem State.begin_packetPos (s : State) : (s.begin).packetPos = s.packetPos := rfl
@[simp] theorem State.begin_responsePos (s : State) : (s.begin).responsePos = s.responsePos := rfl
@[simp] theorem State.begin_executionTime (s : State) : (s.begin).executionTime = s.executionTime := rfl
@[simp] theorem State.begin_configZone (s : State) : (s.begin).configZone = s.configZone := rfl
@[simp] theorem State.begin_otpZone (s : State) : (s.begin).otpZone = s.otpZone := rfl
@[simp] theorem State.begin_dataZone (s : State) : (s.begin).dataZone = s.dataZone := rfl
@[simp] theorem State.begin_commandPacket (s : State) : (s.begin).commandPacket = s.commandPacket := rfl
@[simp] theorem State.begin_responsePacket (s : State) : (s.begin).responsePacket = s.responsePacket := rfl
@[simp] theorem State.begin_initDone (s : State) : (s.begin).initDone = s.initDone := rfl
@[simp] theorem State.begin_requests (s : State) : (s.begin).requests = s.requests := rfl
@[simp] theorem State.begin_entropyIn (s : State) : (s.begin).entropyIn = s.entropyIn := rfl
@[simp] theorem State.begin_drawCount (s : State) : (s.begin).drawCount = s.drawCount := rfl
@[simp] theorem State.begin_response (s : State) : (s.begin).response = .quiet := rfl

/-! `returns`. -/

@[simp] theorem State.returns_state (s : State) (r : Result) : (s.returns r).state = s.state := rfl
@[simp] theorem State.returns_lastError (s : State) (r : Result) : (s.returns r).lastError = s.lastError := rfl
@[simp] theorem State.returns_packetPos (s : State) (r : Result) : (s.returns r).packetPos = s.packetPos := rfl
@[simp] theorem State.returns_responsePos (s : State) (r : Result) : (s.returns r).responsePos = s.responsePos := rfl
@[simp] theorem State.returns_executionTime (s : State) (r : Result) : (s.returns r).executionTime = s.executionTime := rfl
@[simp] theorem State.returns_configZone (s : State) (r : Result) : (s.returns r).configZone = s.configZone := rfl
@[simp] theorem State.returns_otpZone (s : State) (r : Result) : (s.returns r).otpZone = s.otpZone := rfl
@[simp] theorem State.returns_dataZone (s : State) (r : Result) : (s.returns r).dataZone = s.dataZone := rfl
@[simp] theorem State.returns_commandPacket (s : State) (r : Result) : (s.returns r).commandPacket = s.commandPacket := rfl
@[simp] theorem State.returns_responsePacket (s : State) (r : Result) : (s.returns r).responsePacket = s.responsePacket := rfl
@[simp] theorem State.returns_initDone (s : State) (r : Result) : (s.returns r).initDone = s.initDone := rfl
@[simp] theorem State.returns_requests (s : State) (r : Result) : (s.returns r).requests = s.requests := rfl
@[simp] theorem State.returns_entropyIn (s : State) (r : Result) : (s.returns r).entropyIn = s.entropyIn := rfl
@[simp] theorem State.returns_drawCount (s : State) (r : Result) : (s.returns r).drawCount = s.drawCount := rfl
@[simp] theorem State.returns_response (s : State) (r : Result) : (s.returns r).response = { s.response with result := r } := rfl

/-! `setPacketPos`. -/

@[simp] theorem State.setPacketPos_state (s : State) (v : BitVec 8) : (s.setPacketPos v).state = s.state := rfl
@[simp] theorem State.setPacketPos_lastError (s : State) (v : BitVec 8) : (s.setPacketPos v).lastError = s.lastError := rfl
@[simp] theorem State.setPacketPos_packetPos (s : State) (v : BitVec 8) : (s.setPacketPos v).packetPos = v := rfl
@[simp] theorem State.setPacketPos_responsePos (s : State) (v : BitVec 8) : (s.setPacketPos v).responsePos = s.responsePos := rfl
@[simp] theorem State.setPacketPos_executionTime (s : State) (v : BitVec 8) : (s.setPacketPos v).executionTime = s.executionTime := rfl
@[simp] theorem State.setPacketPos_configZone (s : State) (v : BitVec 8) : (s.setPacketPos v).configZone = s.configZone := rfl
@[simp] theorem State.setPacketPos_otpZone (s : State) (v : BitVec 8) : (s.setPacketPos v).otpZone = s.otpZone := rfl
@[simp] theorem State.setPacketPos_dataZone (s : State) (v : BitVec 8) : (s.setPacketPos v).dataZone = s.dataZone := rfl
@[simp] theorem State.setPacketPos_commandPacket (s : State) (v : BitVec 8) : (s.setPacketPos v).commandPacket = s.commandPacket := rfl
@[simp] theorem State.setPacketPos_responsePacket (s : State) (v : BitVec 8) : (s.setPacketPos v).responsePacket = s.responsePacket := rfl
@[simp] theorem State.setPacketPos_initDone (s : State) (v : BitVec 8) : (s.setPacketPos v).initDone = s.initDone := rfl
@[simp] theorem State.setPacketPos_requests (s : State) (v : BitVec 8) : (s.setPacketPos v).requests = s.requests := rfl
@[simp] theorem State.setPacketPos_entropyIn (s : State) (v : BitVec 8) : (s.setPacketPos v).entropyIn = s.entropyIn := rfl
@[simp] theorem State.setPacketPos_drawCount (s : State) (v : BitVec 8) : (s.setPacketPos v).drawCount = s.drawCount := rfl
@[simp] theorem State.setPacketPos_response (s : State) (v : BitVec 8) : (s.setPacketPos v).response = s.response := rfl

/-! `setResponsePos`. -/

@[simp] theorem State.setResponsePos_state (s : State) (v : BitVec 8) : (s.setResponsePos v).state = s.state := rfl
@[simp] theorem State.setResponsePos_lastError (s : State) (v : BitVec 8) : (s.setResponsePos v).lastError = s.lastError := rfl
@[simp] theorem State.setResponsePos_packetPos (s : State) (v : BitVec 8) : (s.setResponsePos v).packetPos = s.packetPos := rfl
@[simp] theorem State.setResponsePos_responsePos (s : State) (v : BitVec 8) : (s.setResponsePos v).responsePos = v := rfl
@[simp] theorem State.setResponsePos_executionTime (s : State) (v : BitVec 8) : (s.setResponsePos v).executionTime = s.executionTime := rfl
@[simp] theorem State.setResponsePos_configZone (s : State) (v : BitVec 8) : (s.setResponsePos v).configZone = s.configZone := rfl
@[simp] theorem State.setResponsePos_otpZone (s : State) (v : BitVec 8) : (s.setResponsePos v).otpZone = s.otpZone := rfl
@[simp] theorem State.setResponsePos_dataZone (s : State) (v : BitVec 8) : (s.setResponsePos v).dataZone = s.dataZone := rfl
@[simp] theorem State.setResponsePos_commandPacket (s : State) (v : BitVec 8) : (s.setResponsePos v).commandPacket = s.commandPacket := rfl
@[simp] theorem State.setResponsePos_responsePacket (s : State) (v : BitVec 8) : (s.setResponsePos v).responsePacket = s.responsePacket := rfl
@[simp] theorem State.setResponsePos_initDone (s : State) (v : BitVec 8) : (s.setResponsePos v).initDone = s.initDone := rfl
@[simp] theorem State.setResponsePos_requests (s : State) (v : BitVec 8) : (s.setResponsePos v).requests = s.requests := rfl
@[simp] theorem State.setResponsePos_entropyIn (s : State) (v : BitVec 8) : (s.setResponsePos v).entropyIn = s.entropyIn := rfl
@[simp] theorem State.setResponsePos_drawCount (s : State) (v : BitVec 8) : (s.setResponsePos v).drawCount = s.drawCount := rfl
@[simp] theorem State.setResponsePos_response (s : State) (v : BitVec 8) : (s.setResponsePos v).response = s.response := rfl

/-! `setDeviceState`. -/

@[simp] theorem State.setDeviceState_state (s : State) (d : DeviceState) : (s.setDeviceState d).state = d := rfl
@[simp] theorem State.setDeviceState_lastError (s : State) (d : DeviceState) : (s.setDeviceState d).lastError = s.lastError := rfl
@[simp] theorem State.setDeviceState_packetPos (s : State) (d : DeviceState) : (s.setDeviceState d).packetPos = s.packetPos := rfl
@[simp] theorem State.setDeviceState_responsePos (s : State) (d : DeviceState) : (s.setDeviceState d).responsePos = s.responsePos := rfl
@[simp] theorem State.setDeviceState_executionTime (s : State) (d : DeviceState) : (s.setDeviceState d).executionTime = s.executionTime := rfl
@[simp] theorem State.setDeviceState_configZone (s : State) (d : DeviceState) : (s.setDeviceState d).configZone = s.configZone := rfl
@[simp] theorem State.setDeviceState_otpZone (s : State) (d : DeviceState) : (s.setDeviceState d).otpZone = s.otpZone := rfl
@[simp] theorem State.setDeviceState_dataZone (s : State) (d : DeviceState) : (s.setDeviceState d).dataZone = s.dataZone := rfl
@[simp] theorem State.setDeviceState_commandPacket (s : State) (d : DeviceState) : (s.setDeviceState d).commandPacket = s.commandPacket := rfl
@[simp] theorem State.setDeviceState_responsePacket (s : State) (d : DeviceState) : (s.setDeviceState d).responsePacket = s.responsePacket := rfl
@[simp] theorem State.setDeviceState_initDone (s : State) (d : DeviceState) : (s.setDeviceState d).initDone = s.initDone := rfl
@[simp] theorem State.setDeviceState_requests (s : State) (d : DeviceState) : (s.setDeviceState d).requests = s.requests := rfl
@[simp] theorem State.setDeviceState_entropyIn (s : State) (d : DeviceState) : (s.setDeviceState d).entropyIn = s.entropyIn := rfl
@[simp] theorem State.setDeviceState_drawCount (s : State) (d : DeviceState) : (s.setDeviceState d).drawCount = s.drawCount := rfl
@[simp] theorem State.setDeviceState_response (s : State) (d : DeviceState) : (s.setDeviceState d).response = s.response := rfl

/-! `withRequests`. -/

@[simp] theorem State.withRequests_state (s : State) (rs : List Request) : (s.withRequests rs).state = s.state := rfl
@[simp] theorem State.withRequests_lastError (s : State) (rs : List Request) : (s.withRequests rs).lastError = s.lastError := rfl
@[simp] theorem State.withRequests_packetPos (s : State) (rs : List Request) : (s.withRequests rs).packetPos = s.packetPos := rfl
@[simp] theorem State.withRequests_responsePos (s : State) (rs : List Request) : (s.withRequests rs).responsePos = s.responsePos := rfl
@[simp] theorem State.withRequests_executionTime (s : State) (rs : List Request) : (s.withRequests rs).executionTime = s.executionTime := rfl
@[simp] theorem State.withRequests_configZone (s : State) (rs : List Request) : (s.withRequests rs).configZone = s.configZone := rfl
@[simp] theorem State.withRequests_otpZone (s : State) (rs : List Request) : (s.withRequests rs).otpZone = s.otpZone := rfl
@[simp] theorem State.withRequests_dataZone (s : State) (rs : List Request) : (s.withRequests rs).dataZone = s.dataZone := rfl
@[simp] theorem State.withRequests_commandPacket (s : State) (rs : List Request) : (s.withRequests rs).commandPacket = s.commandPacket := rfl
@[simp] theorem State.withRequests_responsePacket (s : State) (rs : List Request) : (s.withRequests rs).responsePacket = s.responsePacket := rfl
@[simp] theorem State.withRequests_initDone (s : State) (rs : List Request) : (s.withRequests rs).initDone = s.initDone := rfl
@[simp] theorem State.withRequests_requests (s : State) (rs : List Request) : (s.withRequests rs).requests = rs := rfl
@[simp] theorem State.withRequests_entropyIn (s : State) (rs : List Request) : (s.withRequests rs).entropyIn = s.entropyIn := rfl
@[simp] theorem State.withRequests_drawCount (s : State) (rs : List Request) : (s.withRequests rs).drawCount = s.drawCount := rfl
@[simp] theorem State.withRequests_response (s : State) (rs : List Request) : (s.withRequests rs).response = s.response := rfl

/-! `showLock`. -/

@[simp] theorem State.showLock_state (s : State) (z : Byte) : (s.showLock z).state = s.state := rfl
@[simp] theorem State.showLock_lastError (s : State) (z : Byte) : (s.showLock z).lastError = s.lastError := rfl
@[simp] theorem State.showLock_packetPos (s : State) (z : Byte) : (s.showLock z).packetPos = s.packetPos := rfl
@[simp] theorem State.showLock_responsePos (s : State) (z : Byte) : (s.showLock z).responsePos = s.responsePos := rfl
@[simp] theorem State.showLock_executionTime (s : State) (z : Byte) : (s.showLock z).executionTime = s.executionTime := rfl
@[simp] theorem State.showLock_configZone (s : State) (z : Byte) : (s.showLock z).configZone = s.configZone := rfl
@[simp] theorem State.showLock_otpZone (s : State) (z : Byte) : (s.showLock z).otpZone = s.otpZone := rfl
@[simp] theorem State.showLock_dataZone (s : State) (z : Byte) : (s.showLock z).dataZone = s.dataZone := rfl
@[simp] theorem State.showLock_commandPacket (s : State) (z : Byte) : (s.showLock z).commandPacket = s.commandPacket := rfl
@[simp] theorem State.showLock_responsePacket (s : State) (z : Byte) : (s.showLock z).responsePacket = s.responsePacket := rfl
@[simp] theorem State.showLock_initDone (s : State) (z : Byte) : (s.showLock z).initDone = s.initDone := rfl
@[simp] theorem State.showLock_requests (s : State) (z : Byte) : (s.showLock z).requests = s.requests := rfl
@[simp] theorem State.showLock_entropyIn (s : State) (z : Byte) : (s.showLock z).entropyIn = s.entropyIn := rfl
@[simp] theorem State.showLock_drawCount (s : State) (z : Byte) : (s.showLock z).drawCount = s.drawCount := rfl
@[simp] theorem State.showLock_response (s : State) (z : Byte) : (s.showLock z).response = { s.response with zoneLocked := s.zoneLocked z } := rfl

/-! `recordLatency`: `executionTime` alone. -/

@[simp] theorem State.recordLatency_state (s : State) (c : Command) : (s.recordLatency c).state = s.state := by cases c <;> rfl
@[simp] theorem State.recordLatency_lastError (s : State) (c : Command) : (s.recordLatency c).lastError = s.lastError := by cases c <;> rfl
@[simp] theorem State.recordLatency_packetPos (s : State) (c : Command) : (s.recordLatency c).packetPos = s.packetPos := by cases c <;> rfl
@[simp] theorem State.recordLatency_responsePos (s : State) (c : Command) : (s.recordLatency c).responsePos = s.responsePos := by cases c <;> rfl
@[simp] theorem State.recordLatency_configZone (s : State) (c : Command) : (s.recordLatency c).configZone = s.configZone := by cases c <;> rfl
@[simp] theorem State.recordLatency_otpZone (s : State) (c : Command) : (s.recordLatency c).otpZone = s.otpZone := by cases c <;> rfl
@[simp] theorem State.recordLatency_dataZone (s : State) (c : Command) : (s.recordLatency c).dataZone = s.dataZone := by cases c <;> rfl
@[simp] theorem State.recordLatency_commandPacket (s : State) (c : Command) : (s.recordLatency c).commandPacket = s.commandPacket := by cases c <;> rfl
@[simp] theorem State.recordLatency_responsePacket (s : State) (c : Command) : (s.recordLatency c).responsePacket = s.responsePacket := by cases c <;> rfl
@[simp] theorem State.recordLatency_initDone (s : State) (c : Command) : (s.recordLatency c).initDone = s.initDone := by cases c <;> rfl
@[simp] theorem State.recordLatency_requests (s : State) (c : Command) : (s.recordLatency c).requests = s.requests := by cases c <;> rfl
@[simp] theorem State.recordLatency_entropyIn (s : State) (c : Command) : (s.recordLatency c).entropyIn = s.entropyIn := by cases c <;> rfl
@[simp] theorem State.recordLatency_drawCount (s : State) (c : Command) : (s.recordLatency c).drawCount = s.drawCount := by cases c <;> rfl
@[simp] theorem State.recordLatency_response (s : State) (c : Command) : (s.recordLatency c).response = s.response := by cases c <;> rfl

@[simp] theorem State.recordLatency_executionTime (s : State) (c : Command) :
    (s.recordLatency c).executionTime = (latency c).getD s.executionTime := by cases c <;> rfl

/-! `memWrite`: the memory written, and no other field. -/

@[simp] theorem State.memWrite_state (s : State) (sp : Space) (a : Nat) (v : List Byte) : (s.memWrite sp a v).state = s.state := State.setMem_state s sp _
@[simp] theorem State.memWrite_lastError (s : State) (sp : Space) (a : Nat) (v : List Byte) : (s.memWrite sp a v).lastError = s.lastError := State.setMem_lastError s sp _
@[simp] theorem State.memWrite_packetPos (s : State) (sp : Space) (a : Nat) (v : List Byte) : (s.memWrite sp a v).packetPos = s.packetPos := State.setMem_packetPos s sp _
@[simp] theorem State.memWrite_responsePos (s : State) (sp : Space) (a : Nat) (v : List Byte) : (s.memWrite sp a v).responsePos = s.responsePos := State.setMem_responsePos s sp _
@[simp] theorem State.memWrite_executionTime (s : State) (sp : Space) (a : Nat) (v : List Byte) : (s.memWrite sp a v).executionTime = s.executionTime := State.setMem_executionTime s sp _
@[simp] theorem State.memWrite_initDone (s : State) (sp : Space) (a : Nat) (v : List Byte) : (s.memWrite sp a v).initDone = s.initDone := State.setMem_initDone s sp _
@[simp] theorem State.memWrite_requests (s : State) (sp : Space) (a : Nat) (v : List Byte) : (s.memWrite sp a v).requests = s.requests := State.setMem_requests s sp _
@[simp] theorem State.memWrite_entropyIn (s : State) (sp : Space) (a : Nat) (v : List Byte) : (s.memWrite sp a v).entropyIn = s.entropyIn := State.setMem_entropyIn s sp _
@[simp] theorem State.memWrite_drawCount (s : State) (sp : Space) (a : Nat) (v : List Byte) : (s.memWrite sp a v).drawCount = s.drawCount := State.setMem_drawCount s sp _
@[simp] theorem State.memWrite_response (s : State) (sp : Space) (a : Nat) (v : List Byte) : (s.memWrite sp a v).response = s.response := State.setMem_response s sp _

@[simp] theorem State.mem_memWrite_same (s : State) (sp : Space) (a : Nat) (v : List Byte) :
    (s.memWrite sp a v).mem sp = Memory.writeAll sp.erased (s.mem sp) a v := State.mem_setMem_same s sp _

theorem State.mem_memWrite_other (s : State) {sp sp' : Space} (a : Nat) (v : List Byte) (h : sp' ≠ sp) :
    (s.memWrite sp a v).mem sp' = s.mem sp' := State.mem_setMem_other s _ h

/-! The updates that leave every memory alone. -/

@[simp] theorem State.mem_setPacketPos (s : State) (v : BitVec 8) (sp : Space) : (s.setPacketPos v).mem sp = s.mem sp := by cases sp <;> rfl
@[simp] theorem State.readByte_setPacketPos (s : State) (v : BitVec 8) (sp : Space) (a : Nat) : (s.setPacketPos v).readByte sp a = s.readByte sp a := by simp [State.readByte]
@[simp] theorem State.mem_setResponsePos (s : State) (v : BitVec 8) (sp : Space) : (s.setResponsePos v).mem sp = s.mem sp := by cases sp <;> rfl
@[simp] theorem State.readByte_setResponsePos (s : State) (v : BitVec 8) (sp : Space) (a : Nat) : (s.setResponsePos v).readByte sp a = s.readByte sp a := by simp [State.readByte]
@[simp] theorem State.mem_setDeviceState (s : State) (d : DeviceState) (sp : Space) : (s.setDeviceState d).mem sp = s.mem sp := by cases sp <;> rfl
@[simp] theorem State.readByte_setDeviceState (s : State) (d : DeviceState) (sp : Space) (a : Nat) : (s.setDeviceState d).readByte sp a = s.readByte sp a := by simp [State.readByte]
@[simp] theorem State.mem_withRequests (s : State) (rs : List Request) (sp : Space) : (s.withRequests rs).mem sp = s.mem sp := by cases sp <;> rfl
@[simp] theorem State.readByte_withRequests (s : State) (rs : List Request) (sp : Space) (a : Nat) : (s.withRequests rs).readByte sp a = s.readByte sp a := by simp [State.readByte]
@[simp] theorem State.mem_raise (s : State) (e : BlockError) (sp : Space) : (s.raise e).mem sp = s.mem sp := by cases sp <;> rfl
@[simp] theorem State.readByte_raise (s : State) (e : BlockError) (sp : Space) (a : Nat) : (s.raise e).readByte sp a = s.readByte sp a := by simp [State.readByte]
@[simp] theorem State.mem_tookDraw (s : State) (sp : Space) : (s.tookDraw).mem sp = s.mem sp := by cases sp <;> rfl
@[simp] theorem State.readByte_tookDraw (s : State) (sp : Space) (a : Nat) : (s.tookDraw).readByte sp a = s.readByte sp a := by simp [State.readByte]
@[simp] theorem State.mem_begin (s : State) (sp : Space) : (s.begin).mem sp = s.mem sp := by cases sp <;> rfl
@[simp] theorem State.readByte_begin (s : State) (sp : Space) (a : Nat) : (s.begin).readByte sp a = s.readByte sp a := by simp [State.readByte]
@[simp] theorem State.mem_returns (s : State) (r : Result) (sp : Space) : (s.returns r).mem sp = s.mem sp := by cases sp <;> rfl
@[simp] theorem State.readByte_returns (s : State) (r : Result) (sp : Space) (a : Nat) : (s.returns r).readByte sp a = s.readByte sp a := by simp [State.readByte]
@[simp] theorem State.mem_showLock (s : State) (z : Byte) (sp : Space) : (s.showLock z).mem sp = s.mem sp := by cases sp <;> rfl
@[simp] theorem State.readByte_showLock (s : State) (z : Byte) (sp : Space) (a : Nat) : (s.showLock z).readByte sp a = s.readByte sp a := by simp [State.readByte]
@[simp] theorem State.mem_recordLatency (s : State) (c : Command) (sp : Space) : (s.recordLatency c).mem sp = s.mem sp := by cases sp <;> cases c <;> rfl
@[simp] theorem State.readByte_recordLatency (s : State) (c : Command) (sp : Space) (a : Nat) : (s.recordLatency c).readByte sp a = s.readByte sp a := by simp [State.readByte]

end Sys2Proof.Machine
end

