-- ==== Sys2Proof/Laws/Ops.lean ====
section
/-! SUPPORT. One lemma for each shared operation, saying once what it does. -/

namespace Sys2Proof.Machine

/-! Memory primitives (R14). -/

/-- Reading a byte depends on the memory of its space alone. -/
theorem State.readByte_congr {s t : State} {sp : Space} (h : s.mem sp = t.mem sp) (a : Nat) :
    s.readByte sp a = t.readByte sp a := by rw [State.readByte, State.readByte, h]

/-- Reading after `MemWrite`, in the same space. -/
theorem State.readByte_memWrite_same (s : State) (sp : Space) (a : Nat) (v : List Byte) (b : Nat) :
    (s.memWrite sp a v).readByte sp b = if a ≤ b ∧ b < a + v.length then v.getD (b - a) 0 else s.readByte sp b := by
  rw [State.readByte, State.mem_memWrite_same, Memory.read_writeAll]; rfl

/-- Reading after `MemWrite`, in another space. -/
theorem State.readByte_memWrite_other (s : State) {sp sp' : Space} (a : Nat) (v : List Byte) (b : Nat) (h : sp' ≠ sp) :
    (s.memWrite sp a v).readByte sp' b = s.readByte sp' b :=
  State.readByte_congr (State.mem_memWrite_other s a v h) b

@[simp] theorem State.memRead_length (s : State) (sp : Space) (a n : Nat) : (s.memRead sp a n).length = n := by
  simp [State.memRead]

theorem State.memRead_getElem (s : State) (sp : Space) (a n k : Nat) (h : k < (s.memRead sp a n).length) :
    (s.memRead sp a n)[k] = s.readByte sp (a + k) := by simp [State.memRead]

theorem State.memRead_getElem? (s : State) (sp : Space) (a n k : Nat) (h : k < n) :
    (s.memRead sp a n)[k]? = some (s.readByte sp (a + k)) := by simp [State.memRead, h]

/-- `MemRead` depends on the memory of its space alone. -/
theorem State.memRead_congr {s t : State} {sp : Space} (h : s.mem sp = t.mem sp) (a n : Nat) :
    s.memRead sp a n = t.memRead sp a n := by simp only [State.memRead, State.readByte_congr h]

/-- `MemRead` of what `MemWrite` wrote. -/
theorem State.memRead_memWrite (s : State) (sp : Space) (a : Nat) (v : List Byte) :
    (s.memWrite sp a v).memRead sp a v.length = v := by
  refine List.ext_getElem (by simp) fun k hk hv => ?_
  rw [State.memRead_getElem, State.readByte_memWrite_same, if_pos (by omega)]
  simp [hv]

/-- `MemWrite` inside its space keeps every memory canonical. -/
theorem State.wf_memWrite {s : State} (h : ∀ sp, (s.mem sp).wf sp) (sp : Space) {a : Nat} {v : List Byte}
    (ha : a + v.length ≤ sp.size) : ∀ sp', ((s.memWrite sp a v).mem sp').wf sp' := by
  intro sp'
  by_cases e : sp' = sp
  · subst e
    rw [State.mem_memWrite_same]
    exact Memory.wf_writeAll (h sp') ha
  · rw [State.mem_memWrite_other s a v e]
    exact h sp'

/-! The draw (R9). -/

@[simp] theorem State.nextDraw_begin (s : State) : s.begin.nextDraw = s.nextDraw := rfl

/-- A draw the entropy input presents is used as it is. -/
theorem State.nextDraw_presented (s : State) (d : Bytes32) (ds : List Bytes32) :
    { s with entropyIn := d :: ds }.nextDraw = d := rfl

/-! The lock predicates (R27) and the mapper's lock output (R143). -/

theorem State.configLocked_eq (s : State) : s.configLocked = (s.readByte .config 87 == 0x00) := rfl

theorem State.dataOtpLocked_eq (s : State) : s.dataOtpLocked = (s.readByte .config 86 == 0x00) := rfl

theorem State.configLocked_congr {s t : State} (h : s.configZone = t.configZone) : s.configLocked = t.configLocked := by
  simp only [State.configLocked, State.readByte_congr (sp := .config) (s := s) (t := t) h]

theorem State.dataOtpLocked_congr {s t : State} (h : s.configZone = t.configZone) :
    s.dataOtpLocked = t.dataOtpLocked := by
  simp only [State.dataOtpLocked, State.readByte_congr (sp := .config) (s := s) (t := t) h]

theorem State.zoneLocked_congr {s t : State} (h : s.configZone = t.configZone) (z : Byte) :
    s.zoneLocked z = t.zoneLocked z := by
  simp only [State.zoneLocked]
  congr 1
  funext sp
  cases sp <;> simp only [State.lockOf, State.configLocked_congr h, State.dataOtpLocked_congr h]

/-! The mapper (R131). -/

/-- The zone tags (R89): a tag names a space exactly when it is 0, 1 or 2. -/
theorem zoneSpace_cases (z : Byte) :
    (z = 0 ∧ zoneSpace z = some .config) ∨ (z = 1 ∧ zoneSpace z = some .otp) ∨ (z = 2 ∧ zoneSpace z = some .data) ∨
      (2 < z.toNat ∧ zoneSpace z = none) := by
  by_cases h0 : z = 0
  · subst h0; exact .inl ⟨rfl, rfl⟩
  by_cases h1 : z = 1
  · subst h1; exact .inr (.inl ⟨rfl, rfl⟩)
  by_cases h2 : z = 2
  · subst h2; exact .inr (.inr (.inl ⟨rfl, rfl⟩))
  refine .inr (.inr (.inr ⟨?_, (if_neg h0).trans ((if_neg h1).trans (if_neg h2))⟩))
  have e0 : z.toNat ≠ 0 := fun h => h0 (BitVec.eq_of_toNat_eq h)
  have e1 : z.toNat ≠ 1 := fun h => h1 (BitVec.eq_of_toNat_eq h)
  have e2 : z.toNat ≠ 2 := fun h => h2 (BitVec.eq_of_toNat_eq h)
  omega

/-- The mapper names a zone memory only: the two buffers are no zone. -/
theorem zoneSpace_isZone {z : Byte} {sp : Space} (h : zoneSpace z = some sp) : sp ≠ .command ∧ sp ≠ .response := by
  rcases zoneSpace_cases z with ⟨-, e⟩ | ⟨-, e⟩ | ⟨-, e⟩ | ⟨-, e⟩ <;> rw [e] at h <;> cases h <;> decide

/-- Everything `mapZone` can answer (R131, R132). -/
theorem mapZone_cases (z : Byte) (a n : Nat) :
    (zoneSpace z = none ∧ mapZone z a n = .reject .invalidZone) ∨
    (∃ sp, zoneSpace z = some sp ∧ 32 < n ∧ mapZone z a n = .reject .lengthTooLarge) ∨
    (∃ sp, zoneSpace z = some sp ∧ n ≤ 32 ∧ sp.size < a + n ∧ mapZone z a n = .reject .outOfRange) ∨
    (∃ sp, zoneSpace z = some sp ∧ n ≤ 32 ∧ a + n ≤ sp.size ∧ mapZone z a n = .hit sp a n) := by
  unfold mapZone
  cases hz : zoneSpace z with
  | none => exact .inl ⟨rfl, rfl⟩
  | some sp =>
    by_cases hn : 32 < n
    · exact .inr (.inl ⟨sp, rfl, hn, by simp [hn]⟩)
    · by_cases hr : sp.size < a + n
      · exact .inr (.inr (.inl ⟨sp, rfl, by omega, hr, by simp [hn, hr]⟩))
      · exact .inr (.inr (.inr ⟨sp, rfl, by omega, by omega, by simp [hn, hr]⟩))

/-- A hit is in range (R133). -/
theorem mapZone_hit {z : Byte} {a n : Nat} {sp : Space} {a' n' : Nat} (h : mapZone z a n = .hit sp a' n') :
    zoneSpace z = some sp ∧ a' = a ∧ n' = n ∧ n ≤ 32 ∧ a + n ≤ sp.size := by
  rcases mapZone_cases z a n with ⟨-, e⟩ | ⟨-, -, -, e⟩ | ⟨-, -, -, -, e⟩ | ⟨sp', hz, hn, hr, e⟩ <;> rw [e] at h <;> cases h
  exact ⟨hz, rfl, rfl, hn, hr⟩

/-- The mapper raises three codes only. -/
theorem mapZone_reject {z : Byte} {a n : Nat} {e : BlockError} (h : mapZone z a n = .reject e) :
    e = .invalidZone ∨ e = .lengthTooLarge ∨ e = .outOfRange := by
  rcases mapZone_cases z a n with ⟨-, he⟩ | ⟨-, -, -, he⟩ | ⟨-, -, -, -, he⟩ | ⟨_, -, -, -, he⟩ <;> rw [he] at h <;> cases h <;> simp

/-! Commands (44_dispatch.md). -/

/-- What any command leaves alone: `state`, both cursors' receive side, the zones, the receive buffer, the host's requests and
what was given back (R210, R223). -/
theorem runCommand_frame (c : Command) (s : State) :
    runCommand c s = { s with
      lastError      := (runCommand c s).lastError
      responsePos    := (runCommand c s).responsePos
      executionTime  := (runCommand c s).executionTime
      responsePacket := (runCommand c s).responsePacket
      entropyIn      := (runCommand c s).entropyIn
      drawCount      := (runCommand c s).drawCount } := by
  cases c <;> rfl

/-- The commands other than RANDOM write `executionTime`, or `lastError`, and nothing else (R213 to R221). -/
theorem runCommand_other {c : Command} (h : c ≠ .random) (s : State) :
    runCommand c s = { s with
      lastError     := if c = .unknown then 7 else s.lastError
      executionTime := (latency c).getD s.executionTime } := by
  cases c <;> first | rfl | exact absurd rfl h

end Sys2Proof.Machine
end

