-- ==== Sys2Proof/Laws/Framer.lean ====
section
/-! SUPPORT. What the framer's step can do, in one lemma, and what a sequence of DELIVERs keeps. -/

namespace Sys2Proof.Machine

/-! Storing a byte (R182). -/

@[simp] theorem State.store_packetPos (s : State) (b : Byte) : (s.store b).packetPos = s.packetPos + 1 := rfl

/-- Storing a byte changes the receive buffer and the cursor. -/
theorem State.store_eq (s : State) (b : Byte) :
    s.store b = { s with
      commandPacket := Memory.write Space.command.erased s.commandPacket s.packetPos.toNat b
      packetPos     := s.packetPos + 1 } := rfl

theorem State.store_readByte_command (s : State) (b : Byte) (a : Nat) :
    (s.store b).readByte .command a = if a = s.packetPos.toNat then b else s.readByte .command a := by
  have e : (s.store b).readByte .command a = (s.memWrite .command s.packetPos.toNat [b]).readByte .command a := rfl
  rw [e, State.readByte_memWrite_same]
  by_cases h : a = s.packetPos.toNat
  · rw [if_pos (by simp; omega), if_pos h, h]; simp
  · rw [if_neg (by simp; omega), if_neg h]

theorem State.store_mem_other (s : State) (b : Byte) {sp : Space} (h : sp ≠ .command) :
    (s.store b).mem sp = s.mem sp := by cases sp <;> first | rfl | exact absurd rfl h

theorem State.packetPos_succ {s : State} (h : s.packetPos.toNat < 128) :
    (s.packetPos + 1).toNat = s.packetPos.toNat + 1 := by
  rw [BitVec.toNat_add]
  have : (1 : BitVec 8).toNat = 1 := rfl
  omega

/-- After the byte is stored, the frame is complete exactly when it was not the first byte, the write is a command frame, and
the cursor equals the declared length (R182 to R184). -/
theorem State.atBoundary_iff (t : State) :
    t.atBoundary = true ↔ t.packetPos ≠ 1 ∧ t.readByte .command 0 = 3 ∧ t.packetPos = t.readByte .command 1 := by
  simp [State.atBoundary, State.wordAddress, State.declaredLength, frameComplete, waCommandByte, and_assoc]

/-- Everything DELIVER can do (R182): drop the byte, store it, or store it and dispatch. -/
theorem deliverByte_cases (b : Byte) (s : State) :
    (128 ≤ s.packetPos.toNat ∧ dispatches b s = false ∧ deliverByte b s = s) ∨
    (s.packetPos.toNat < 128 ∧ dispatches b s = false ∧ (s.store b).atBoundary = false ∧
      deliverByte b s = s.store b) ∨
    (s.packetPos.toNat < 128 ∧ dispatches b s = true ∧ (s.store b).atBoundary = true ∧
      deliverByte b s = (dispatch (s.store b)).setPacketPos 0) := by
  unfold deliverByte dispatches
  by_cases hp : 128 ≤ s.packetPos.toNat
  · exact .inl ⟨hp, by simp [Nat.not_lt.mpr hp], if_pos hp⟩
  · cases hb : (s.store b).atBoundary with
    | false => exact .inr (.inl ⟨by omega, by simp, rfl, by simp [hp, hb]⟩)
    | true => exact .inr (.inr ⟨by omega, by simp [show s.packetPos.toNat < 128 by omega], rfl, by simp [hp, hb]⟩)

/-- What DELIVER leaves alone whatever happens: `state`, the zones, the model's requests and INIT flag, what was given back
(R182, R223, R243). -/
theorem deliverByte_frame (b : Byte) (s : State) :
    deliverByte b s = { s with
      lastError      := (deliverByte b s).lastError
      packetPos      := (deliverByte b s).packetPos
      responsePos    := (deliverByte b s).responsePos
      executionTime  := (deliverByte b s).executionTime
      commandPacket  := (deliverByte b s).commandPacket
      responsePacket := (deliverByte b s).responsePacket
      entropyIn      := (deliverByte b s).entropyIn
      drawCount      := (deliverByte b s).drawCount } := by
  rcases deliverByte_cases b s with ⟨-, -, e⟩ | ⟨-, -, -, e⟩ | ⟨-, -, -, e⟩ <;> rw [e]
  · rfl
  · unfold dispatch; rw [runCommand_frame]; rfl

/-- Whether a DELIVER dispatches, in terms of the state before it: the byte is not the first, the write is a command frame, and
the advanced cursor meets the declared length, which the byte itself may be (R183, R184). -/
theorem dispatches_iff (b : Byte) (s : State) : dispatches b s = true ↔
    1 ≤ s.packetPos.toNat ∧ s.packetPos.toNat < 128 ∧ s.readByte .command 0 = 3 ∧
      s.packetPos.toNat + 1 = (if s.packetPos.toNat = 1 then b else s.readByte .command 1).toNat := by
  unfold dispatches
  rw [Bool.and_eq_true, decide_eq_true_iff, State.atBoundary_iff]
  simp only [State.store_readByte_command, State.store_packetPos, bufSize]
  by_cases hp : s.packetPos.toNat < 128
  · have hs := State.packetPos_succ hp
    have h1 : s.packetPos + 1 ≠ 1 ↔ 1 ≤ s.packetPos.toNat := by
      rw [ne_eq, ← BitVec.toNat_inj, hs]
      have : (1 : BitVec 8).toNat = 1 := rfl
      omega
    have h2 : ∀ x : Byte, s.packetPos + 1 = x ↔ s.packetPos.toNat + 1 = x.toNat := by
      intro x; rw [← BitVec.toNat_inj, hs]
    rw [h1, h2]
    constructor
    · rintro ⟨-, h, h0, h3⟩
      rw [if_neg (by omega)] at h0
      exact ⟨h, hp, h0, by simpa only [eq_comm (a := (1 : Nat))] using h3⟩
    · rintro ⟨h, -, h0, h3⟩
      exact ⟨hp, h, by rw [if_neg (by omega)]; exact h0, by simpa only [eq_comm (a := (1 : Nat))] using h3⟩
  · simp [hp]

/-- Everything one DELIVER request can do (R182). -/
theorem deliverStep_cases (s : State) (b : Byte) :
    (128 ≤ s.packetPos.toNat ∧ dispatches b s = false ∧ deliverStep s b = s.begin) ∨
    (s.packetPos.toNat < 128 ∧ dispatches b s = false ∧ deliverStep s b = s.begin.store b) ∨
    (s.packetPos.toNat < 128 ∧ dispatches b s = true ∧
      deliverStep s b = (dispatch (s.begin.store b)).setPacketPos 0) := by
  rcases deliverByte_cases b s.begin with ⟨h, hd, e⟩ | ⟨h, hd, -, e⟩ | ⟨h, hd, -, e⟩
  · exact .inl ⟨h, hd, e⟩
  · exact .inr (.inl ⟨h, hd, e⟩)
  · exact .inr (.inr ⟨h, hd, e⟩)

theorem State.packetPos_eq_zero_iff (s : State) : s.packetPos = 0 ↔ s.packetPos.toNat = 0 := by
  rw [← BitVec.toNat_inj]; rfl

/-- The three resting states of the framer, told apart by the cursor and the first byte; they cover every state (R181). -/
theorem State.framerState_iff (s : State) :
    (s.framerState = .awaitingWordAddress ↔ s.packetPos.toNat = 0) ∧
    (s.framerState = .accumulatingFrame ↔ 1 ≤ s.packetPos.toNat ∧ s.readByte .command 0 = 3) ∧
    (s.framerState = .accumulatingNonCommand ↔ 1 ≤ s.packetPos.toNat ∧ s.readByte .command 0 ≠ 3) := by
  have hz := s.packetPos_eq_zero_iff
  by_cases hp : s.packetPos = 0
  · have e : s.framerState = .awaitingWordAddress := if_pos hp
    simp [e, hz.mp hp]
  · have hp' : 1 ≤ s.packetPos.toNat := by have := mt hz.mpr hp; omega
    by_cases h0 : s.readByte .command 0 = 3
    · have e : s.framerState = .accumulatingFrame := (if_neg hp).trans (if_pos h0)
      simp [e, h0, hp']; omega
    · have e : s.framerState = .accumulatingNonCommand := (if_neg hp).trans (if_neg h0)
      rw [e]
      refine ⟨⟨nofun, by omega⟩, ⟨nofun, fun h => absurd h.2 h0⟩, ⟨fun _ => ⟨hp', h0⟩, fun _ => rfl⟩⟩

/-- What any dispatch leaves alone (R210, R223). -/
theorem dispatch_frame (s : State) :
    dispatch s = { s with
      lastError      := (dispatch s).lastError
      responsePos    := (dispatch s).responsePos
      executionTime  := (dispatch s).executionTime
      responsePacket := (dispatch s).responsePacket
      entropyIn      := (dispatch s).entropyIn
      drawCount      := (dispatch s).drawCount } := runCommand_frame _ _

/-! Sequences of DELIVERs (R96). -/

@[simp] theorem deliverAll_nil (s : State) : deliverAll [] s = s := rfl

@[simp] theorem deliverAll_cons (b : Byte) (bs : List Byte) (s : State) :
    deliverAll (b :: bs) s = deliverAll bs (deliverStep s b) := rfl

theorem deliverAll_append (as bs : List Byte) (s : State) :
    deliverAll (as ++ bs) s = deliverAll bs (deliverAll as s) := List.foldl_append

/-- What every DELIVER keeps, a sequence of them keeps. -/
theorem deliverAll_keeps {P : State → Prop} (h : ∀ s b, P s → P (deliverStep s b)) (bs : List Byte) {s : State}
    (hs : P s) : P (deliverAll bs s) := by
  induction bs generalizing s with
  | nil => exact hs
  | cons b bs ih => exact ih (h s b hs)

/-- DELIVER does not look at the host's list of requests. -/
theorem deliverStep_withRequests (s : State) (b : Byte) (rs : List Request) :
    deliverStep (s.withRequests rs) b = (deliverStep s b).withRequests rs := by
  have hb : ((s.withRequests rs).begin.store b).atBoundary = (s.begin.store b).atBoundary := rfl
  have hc : runCommand (opcodes.command (s.begin.store b).opcode) ((s.withRequests rs).begin.store b) =
      (runCommand (opcodes.command (s.begin.store b).opcode) (s.begin.store b)).withRequests rs := by
    cases opcodes.command (s.begin.store b).opcode <;> rfl
  unfold deliverStep deliverByte
  by_cases hp : s.packetPos.toNat ≥ bufSize
  · rw [if_pos (show (s.withRequests rs).begin.packetPos.toNat ≥ bufSize from hp),
      if_pos (show s.begin.packetPos.toNat ≥ bufSize from hp)]
    rfl
  · rw [if_neg (show ¬ (s.withRequests rs).begin.packetPos.toNat ≥ bufSize from hp),
      if_neg (show ¬ s.begin.packetPos.toNat ≥ bufSize from hp)]
    simp only [hb]
    split
    · exact congrArg (State.setPacketPos · 0) hc
    · rfl

/-- So a sequence of DELIVERs does not. -/
theorem deliverAll_withRequests (bs : List Byte) (s : State) (rs : List Request) :
    deliverAll bs (s.withRequests rs) = (deliverAll bs s).withRequests rs := by
  induction bs generalizing s with
  | nil => rfl
  | cons b bs ih => rw [deliverAll_cons, deliverStep_withRequests, ih, deliverAll_cons]

end Sys2Proof.Machine
end

