-- ==== Sys2Proof/Laws/Zone.lean ====
section
/-! SUPPORT. What the zone and key operations can do, each in one lemma. -/

namespace Sys2Proof.Machine

/-- Everything `readZone` can do (R134): fail with a code and change nothing else, or answer the range. -/
theorem readZone_cases (z : Byte) (a n : Nat) (s : State) :
    (∃ e, mapZone z a n = .reject e ∧ readZone z a n s = (none, (s.showLock z).raise e)) ∨
    (∃ sp, zoneSpace z = some sp ∧ n ≤ 32 ∧ a + n ≤ sp.size ∧
      readZone z a n s = (some (s.memRead sp a n), s.showLock z)) := by
  unfold readZone
  cases h : mapZone z a n with
  | reject e => exact .inl ⟨e, rfl, rfl⟩
  | hit sp a' n' =>
    obtain ⟨hz, rfl, rfl, hn, hr⟩ := mapZone_hit h
    exact .inr ⟨sp, hz, hn, hr, rfl⟩

/-- Everything `writeZone` can do (R135, R136): fail with a code and change nothing else, or write the range. -/
theorem writeZone_cases (z : Byte) (a : Nat) (bs : List Byte) (s : State) :
    (∃ e, mapZone z a bs.length = .reject e ∧ writeZone z a bs s = (false, (s.showLock z).raise e)) ∨
    (∃ sp, zoneSpace z = some sp ∧ bs.length ≤ 32 ∧ a + bs.length ≤ sp.size ∧
      writeZone z a bs s = (true, (s.showLock z).memWrite sp a bs)) := by
  unfold writeZone
  cases h : mapZone z a bs.length with
  | reject e => exact .inl ⟨e, rfl, rfl⟩
  | hit sp a' n' =>
    obtain ⟨hz, rfl, -, hn, hr⟩ := mapZone_hit h
    exact .inr ⟨sp, hz, hn, hr, rfl⟩

theorem slotAddress_lt {slot : Byte} (h : slot.toNat < 16) : slotAddress slot + 32 ≤ 512 := by
  simp only [slotAddress, slotSize]; omega

/-- An access to a slot's bytes is a hit (R161, R163). -/
theorem mapZone_slot {slot : Byte} (h : slot.toNat < 16) {n : Nat} (hn : n ≤ 32) :
    mapZone zoneData (slotAddress slot) n = .hit .data (slotAddress slot) n := by
  have hs := slotAddress_lt h
  rcases mapZone_cases zoneData (slotAddress slot) n with ⟨hz, -⟩ | ⟨sp, -, hl, -⟩ | ⟨sp, hz, -, hr, -⟩ | ⟨sp, hz, -, -, e⟩
  · cases hz
  · omega
  · cases hz; simp only [Space.size, dataSize] at hr; omega
  · cases hz; exact e

/-- Everything `storeKey` can do (R161, R165): code 8, code 1, or the key at the slot's start. -/
theorem storeKey_cases (slot : Byte) (key : List Byte) (s : State) :
    (16 ≤ slot.toNat ∧ storeKey slot key s = (false, s.raise .invalidSlot)) ∨
    (slot.toNat < 16 ∧ 32 < key.length ∧ storeKey slot key s = (false, (s.showLock 2).raise .lengthTooLarge)) ∨
    (slot.toNat < 16 ∧ key.length ≤ 32 ∧
      storeKey slot key s = (true, (s.showLock 2).memWrite .data (slotAddress slot) key)) := by
  unfold storeKey
  by_cases hs : 16 ≤ slot.toNat
  · exact .inl ⟨hs, if_pos hs⟩
  · by_cases hk : key.length ≤ 32
    · refine .inr (.inr ⟨by omega, hk, ?_⟩)
      rw [if_neg (show ¬ slot.toNat ≥ slotCount from hs), writeZone, mapZone_slot (by omega) hk]
      rfl
    · have e : mapZone zoneData (slotAddress slot) key.length = .reject .lengthTooLarge := by
        rcases mapZone_cases zoneData (slotAddress slot) key.length with ⟨hz, -⟩ | ⟨sp, -, -, e⟩ | ⟨-, -, hl, -⟩ | ⟨-, -, hl, -⟩
        · cases hz
        · exact e
        · exact absurd hl hk
        · exact absurd hl hk
      refine .inr (.inl ⟨by omega, by omega, ?_⟩)
      rw [if_neg (show ¬ slot.toNat ≥ slotCount from hs), writeZone, e]
      rfl

/-- Everything the read of a slot can do (R163, R164). -/
theorem readSlot_cases (slot : Byte) (s : State) :
    (16 ≤ slot.toNat ∧ readSlot slot s = (none, s.raise .invalidSlot)) ∨
    (slot.toNat < 16 ∧ readSlot slot s = (some (s.memRead .data (slotAddress slot) 32), s.showLock 2)) := by
  unfold readSlot
  by_cases hs : 16 ≤ slot.toNat
  · exact .inl ⟨hs, if_pos hs⟩
  · refine .inr ⟨by omega, ?_⟩
    rw [if_neg (show ¬ slot.toNat ≥ slotCount from hs), readZone,
      show mapZone zoneData (slotAddress slot) slotSize = _ from mapZone_slot (by omega) (Nat.le_refl 32)]
    rfl

/-! What each leaves alone. -/

/-- `readZone` changes `lastError` and what is given back at most (R134). -/
theorem readZone_frame (z : Byte) (a n : Nat) (s : State) :
    (readZone z a n s).2 = { s with
      lastError := (readZone z a n s).2.lastError
      response  := (readZone z a n s).2.response } := by
  rcases readZone_cases z a n s with ⟨e, -, h⟩ | ⟨sp, -, -, -, h⟩ <;> rw [h] <;> rfl

/-- `writeZone` changes `lastError`, what is given back and the three zones at most (R135). -/
theorem writeZone_frame (z : Byte) (a : Nat) (bs : List Byte) (s : State) :
    (writeZone z a bs s).2 = { s with
      lastError  := (writeZone z a bs s).2.lastError
      response   := (writeZone z a bs s).2.response
      configZone := (writeZone z a bs s).2.configZone
      otpZone    := (writeZone z a bs s).2.otpZone
      dataZone   := (writeZone z a bs s).2.dataZone } := by
  rcases writeZone_cases z a bs s with ⟨e, -, h⟩ | ⟨sp, hz, -, -, h⟩ <;> rw [h]
  · rfl
  · rcases zoneSpace_cases z with ⟨-, e⟩ | ⟨-, e⟩ | ⟨-, e⟩ | ⟨-, e⟩ <;> rw [e] at hz <;> cases hz <;> rfl

/-- `storeKey` changes `lastError`, what is given back and the data zone at most (R161). -/
theorem storeKey_frame (slot : Byte) (key : List Byte) (s : State) :
    (storeKey slot key s).2 = { s with
      lastError := (storeKey slot key s).2.lastError
      response  := (storeKey slot key s).2.response
      dataZone  := (storeKey slot key s).2.dataZone } := by
  rcases storeKey_cases slot key s with ⟨-, h⟩ | ⟨-, -, h⟩ | ⟨-, -, h⟩ <;> rw [h] <;> rfl

/-- The read of a slot changes `lastError` and what is given back at most (R163, R164). -/
theorem readSlot_frame (slot : Byte) (s : State) :
    (readSlot slot s).2 = { s with
      lastError := (readSlot slot s).2.lastError
      response  := (readSlot slot s).2.response } := by
  rcases readSlot_cases slot s with ⟨-, h⟩ | ⟨-, h⟩ <;> rw [h] <;> rfl

@[simp] theorem combineBytes_length {key : List Byte} (h : key.length = 32) (m : Bytes32) :
    (combineBytes key m).length = 32 := by simp [combineBytes, h]

@[simp] theorem childBytes_length {parent : List Byte} (h : parent.length = 32) : (childBytes parent).length = 32 := by
  simp [childBytes, h]

end Sys2Proof.Machine
end

