-- ==== Sys2Proof/Laws/Exec.lean ====
section
/-! SUPPORT. What `exec` and `step` can answer. -/

namespace Sys2Proof.Machine

/-- No instruction stops: "no failure halts the overall device" (R260). -/
theorem exec_next (i : Instr) (s : State) : ∃ t, exec i s = .next t := by
  cases i <;> first | exact ⟨_, rfl⟩ | (simp only [exec, execTake]; split <;> exact ⟨_, rfl⟩)

/-- A step is idle, runs the request at the head, or refuses a run without INIT (R7, R300, R301). -/
theorem step_cases (s : State) :
    (s.requests = [] ∧ step s = .next s) ∨
    (∃ r rest, s.requests = r :: rest ∧ s.admits r.val = true ∧ step s = exec r.val (s.withRequests rest)) ∨
    (∃ r rest, s.requests = r :: rest ∧ s.admits r.val = false ∧ step s = .refused .beforeFirstInit) := by
  cases h : s.requests with
  | nil => exact .inl ⟨rfl, by simp [step, h]⟩
  | cons r rest =>
    cases ha : s.admits r.val with
    | true => exact .inr (.inl ⟨r, rest, rfl, ha, by simp [step, h, ha]⟩)
    | false => exact .inr (.inr ⟨r, rest, rfl, ha, by simp [step, h, ha]⟩)

/-- A step that answers a next state was idle or ran the request at the head. -/
theorem step_next {s t : State} (h : step s = .next t) :
    t = s ∨ ∃ r rest, s.requests = r :: rest ∧ exec r.val (s.withRequests rest) = .next t := by
  rcases step_cases s with ⟨-, e⟩ | ⟨r, rest, hr, -, e⟩ | ⟨r, rest, hr, -, e⟩ <;> rw [e] at h
  · injection h with h; exact .inl h.symm
  · exact .inr ⟨r, rest, hr, h⟩
  · cases h

/-- A run takes its first step first. -/
theorem runSteps_succ (n : Nat) {s t : State} (h : step s = .next t) : runSteps (n + 1) s = runSteps n t := by
  simp [runSteps, h]

theorem runSteps_add (m n : Nat) {s t : State} (h : runSteps m s = .next t) : runSteps (m + n) s = runSteps n t := by
  induction m generalizing s with
  | zero => injection h with h; subst h; simp
  | succ m ih =>
    rw [Nat.succ_add_eq_add_succ, Nat.add_succ, runSteps]
    rw [runSteps] at h
    cases hs : step s with
    | next u => rw [hs] at h; exact ih h
    | fault r => rw [hs] at h; cases h
    | refused r => rw [hs] at h; cases h

/-- A step that finds a DELIVER waiting, once INIT was issued, runs it (R182). -/
theorem step_deliver {s : State} (h : s.initDone = true) (b : Byte) (rest : List Request) :
    step (s.withRequests (Request.deliver b :: rest)) = .next ((deliverStep s b).withRequests rest) := by
  rw [← deliverStep_withRequests]
  simp [step, State.admits, h, exec, execDeliver]
  rfl

end Sys2Proof.Machine
end

