-- ==== Sys2Proof/Laws/Inv.lean ====
section
/-! SUPPORT. What the invariant of Safety.lean needs of each shared operation. -/

namespace Sys2Proof.Machine

/-- The part of the invariant that does not speak of the receive side. -/
structure State.OffReceive (s : State) : Prop where
  memories      : s.MemoriesWf
  responsePos   : s.responsePos.toNat ≤ 128
  lastError     : s.lastError ∈ legalErrors
  executionTime : s.executionTime ∈ legalTimes
  replyBound    : ∀ a, 33 ≤ a → s.readByte .response a = 0x00

theorem State.Inv.offReceive {s : State} (h : s.Inv) : s.OffReceive :=
  ⟨h.memories, h.responsePos, h.lastError, h.executionTime, h.replyBound⟩

/-- A state that differs from a legal one in fields the invariant does not name, in zones still canonical and in a legal
`lastError` is legal. -/
theorem State.Inv.congr {s t : State} (h : s.Inv) (hm : t.MemoriesWf) (he : t.lastError ∈ legalErrors)
    (h1 : t.packetPos = s.packetPos) (h2 : t.responsePos = s.responsePos) (h3 : t.executionTime = s.executionTime)
    (h4 : t.commandPacket = s.commandPacket) (h5 : t.responsePacket = s.responsePacket) : t.Inv := by
  have e0 : ∀ a, t.readByte .command a = s.readByte .command a := fun a => State.readByte_congr (sp := .command) h4 a
  have e1 : ∀ a, t.readByte .response a = s.readByte .response a := fun a => State.readByte_congr (sp := .response) h5 a
  exact ⟨hm, h1 ▸ h.packetPos, h2 ▸ h.responsePos, he, h3 ▸ h.executionTime,
    by rw [h1, e0, e0]; exact h.noRest,
    by rw [h1, e0, e0]; exact h.notPassed,
    fun a ha => (e1 a).trans (h.replyBound a ha)⟩

theorem BlockError.code_legal (e : BlockError) : e.code ∈ legalErrors := by cases e <;> decide

theorem State.Inv.begin {s : State} (h : s.Inv) : s.begin.Inv :=
  h.congr (fun sp => by rw [State.mem_begin]; exact h.memories sp) h.lastError rfl rfl rfl rfl rfl

theorem State.Inv.returns {s : State} (h : s.Inv) (r : Result) : (s.returns r).Inv :=
  h.congr (fun sp => by rw [State.mem_returns]; exact h.memories sp) h.lastError rfl rfl rfl rfl rfl

theorem State.Inv.showLock {s : State} (h : s.Inv) (z : Byte) : (s.showLock z).Inv :=
  h.congr (fun sp => by rw [State.mem_showLock]; exact h.memories sp) h.lastError rfl rfl rfl rfl rfl

theorem State.Inv.raise {s : State} (h : s.Inv) (e : BlockError) : (s.raise e).Inv :=
  h.congr (fun sp => by rw [State.mem_raise]; exact h.memories sp) e.code_legal rfl rfl rfl rfl rfl

theorem State.Inv.tookDraw {s : State} (h : s.Inv) : s.tookDraw.Inv :=
  h.congr (fun sp => by rw [State.mem_tookDraw]; exact h.memories sp) h.lastError rfl rfl rfl rfl rfl

theorem State.Inv.withRequests {s : State} (h : s.Inv) (rs : List Request) : (s.withRequests rs).Inv :=
  h.congr (fun sp => by rw [State.mem_withRequests]; exact h.memories sp) h.lastError rfl rfl rfl rfl rfl

theorem State.Inv.setDeviceState {s : State} (h : s.Inv) (d : DeviceState) : (s.setDeviceState d).Inv :=
  h.congr (fun sp => by rw [State.mem_setDeviceState]; exact h.memories sp) h.lastError rfl rfl rfl rfl rfl

/-- `MemWrite` inside a zone keeps the invariant. -/
theorem State.Inv.memWrite {s : State} (h : s.Inv) {sp : Space} (hz : sp ≠ .command ∧ sp ≠ .response) {a : Nat}
    {v : List Byte} (ha : a + v.length ≤ sp.size) : (s.memWrite sp a v).Inv :=
  h.congr (State.wf_memWrite h.memories sp ha) (by simp [h.lastError]) (by simp) (by simp) (by simp)
    (State.mem_memWrite_other s (sp' := .command) a v (Ne.symm hz.1))
    (State.mem_memWrite_other s (sp' := .response) a v (Ne.symm hz.2))

theorem State.Inv.readZone {s : State} (h : s.Inv) (z : Byte) (a n : Nat) : (readZone z a n s).2.Inv := by
  rcases readZone_cases z a n s with ⟨e, -, h'⟩ | ⟨sp, -, -, -, h'⟩ <;> rw [h']
  · exact (h.showLock z).raise e
  · exact h.showLock z

theorem State.Inv.writeZone {s : State} (h : s.Inv) (z : Byte) (a : Nat) (bs : List Byte) :
    (writeZone z a bs s).2.Inv := by
  rcases writeZone_cases z a bs s with ⟨e, -, h'⟩ | ⟨sp, hz, -, hr, h'⟩ <;> rw [h']
  · exact (h.showLock z).raise e
  · exact (h.showLock z).memWrite (zoneSpace_isZone hz) hr

theorem State.Inv.storeKey {s : State} (h : s.Inv) (slot : Byte) (key : List Byte) : (storeKey slot key s).2.Inv := by
  unfold Sys2Proof.Machine.storeKey
  split
  · exact h.raise _
  · exact h.writeZone _ _ _

theorem State.Inv.readSlot {s : State} (h : s.Inv) (slot : Byte) : (readSlot slot s).2.Inv := by
  unfold Sys2Proof.Machine.readSlot
  split
  · exact h.raise _
  · exact h.readZone _ _ _

/-- Any command keeps what does not speak of the receive side (R212 to R221). -/
theorem State.OffReceive.runCommand {s : State} (h : s.OffReceive) (c : Command) : (runCommand c s).OffReceive := by
  by_cases hc : c = .random
  · subst hc
    refine ⟨fun sp => ?_, show (0 : BitVec 8).toNat ≤ 128 by decide, h.lastError,
      show (23 : BitVec 32) ∈ legalTimes by decide, fun a ha => ?_⟩
    · have hw := State.wf_memWrite (s := s.tookDraw) (fun sp => by rw [State.mem_tookDraw]; exact h.memories sp) .response
        (a := 0) (v := randomStatus :: s.nextDraw.toList) (by simp [Space.size]) sp
      simpa [Machine.runCommand, doRandom] using hw
    · simp only [Machine.runCommand, doRandom, State.readByte_recordLatency, State.readByte_setResponsePos,
        State.readByte_memWrite_same]
      rw [if_neg (by simp; omega)]
      simpa using h.replyBound a ha
  · rw [runCommand_other hc s]
    refine ⟨fun sp => ?_, h.responsePos, ?_, ?_, fun a ha => h.replyBound a ha⟩
    · have := h.memories sp
      cases sp <;> exact this
    · show (if c = .unknown then (7 : BitVec 8) else s.lastError) ∈ legalErrors
      split
      · decide
      · exact h.lastError
    · show ((latency c).getD s.executionTime) ∈ legalTimes
      cases c <;> first | exact h.executionTime | simp [latency, legalTimes]

theorem State.Inv.runCommand {s : State} (h : s.Inv) (c : Command) : (runCommand c s).Inv := by
  have h0 := h.offReceive.runCommand c
  have e := runCommand_frame c s
  have ec : (Machine.runCommand c s).commandPacket = s.commandPacket := by rw [e]
  have ep : (Machine.runCommand c s).packetPos = s.packetPos := by rw [e]
  have e0 : ∀ a, (Machine.runCommand c s).readByte .command a = s.readByte .command a :=
    fun a => State.readByte_congr (sp := .command) ec a
  exact ⟨h0.memories, by rw [ep]; exact h.packetPos, h0.responsePos, h0.lastError, h0.executionTime,
    by rw [ep, e0, e0]; exact h.noRest, by rw [ep, e0, e0]; exact h.notPassed, h0.replyBound⟩

/-- Storing a received byte keeps every memory canonical. -/
theorem State.wf_store {s : State} (h : s.MemoriesWf) (hp : s.packetPos.toNat < 128) (b : Byte) :
    (s.store b).MemoriesWf := by
  intro sp
  have := State.wf_memWrite h .command (a := s.packetPos.toNat) (v := [b]) (by simp [Space.size]; omega) sp
  simpa [State.store] using this

end Sys2Proof.Machine
end

