-- ==== Sys2Proof/Laws/PerInstr.lean ====
section
/-! SUPPORT. Laws stated of every instruction, one lemma for each constructor. -/

namespace Sys2Proof.Laws.EncodedSize

/-- The size of an encoding (R81, R88): a command frame has its six fixed bytes at least and as many as its second byte, the
declared length, says; a Word Address is one byte; and what the host requests by a call has none (R80). -/
def Statement (i : Instr) : Prop :=
  i.WellShaped → ∀ bytes, encode i = some bytes →
    i.isRequest = false ∧ (bytes.length = 1 ∨ bytes.length = max 6 (bytes.getD 1 0).toNat)

theorem encodeFrame_length (op : Byte) {f : Frame} (h : f.shapeDefect = none) :
    (encodeFrame op f).length = max 6 ((encodeFrame op f).getD 1 0).toNat := by
  have := Frame.shapeDefect_eq_none.mp h
  simp only [encodeFrame, List.length_cons, List.getD_cons_succ, List.getD_cons_zero]
  omega

theorem random (f : Frame) : Statement (.random f) := by
  intro h _ e
  cases e
  exact ⟨rfl, .inr (encodeFrame_length _ h)⟩

theorem nonce (f : Frame) : Statement (.nonce f) := by
  intro h _ e
  cases e
  exact ⟨rfl, .inr (encodeFrame_length _ h)⟩

theorem genkey (f : Frame) : Statement (.genkey f) := by
  intro h _ e
  cases e
  exact ⟨rfl, .inr (encodeFrame_length _ h)⟩

theorem sign (f : Frame) : Statement (.sign f) := by
  intro h _ e
  cases e
  exact ⟨rfl, .inr (encodeFrame_length _ h)⟩

theorem verify (f : Frame) : Statement (.verify f) := by
  intro h _ e
  cases e
  exact ⟨rfl, .inr (encodeFrame_length _ h)⟩

theorem read (f : Frame) : Statement (.read f) := by
  intro h _ e
  cases e
  exact ⟨rfl, .inr (encodeFrame_length _ h)⟩

theorem write (f : Frame) : Statement (.write f) := by
  intro h _ e
  cases e
  exact ⟨rfl, .inr (encodeFrame_length _ h)⟩

theorem lock (f : Frame) : Statement (.lock f) := by
  intro h _ e
  cases e
  exact ⟨rfl, .inr (encodeFrame_length _ h)⟩

theorem info (f : Frame) : Statement (.info f) := by
  intro h _ e
  cases e
  exact ⟨rfl, .inr (encodeFrame_length _ h)⟩

theorem unknown (op : Byte) (f : Frame) : Statement (.unknown op f) := by
  intro h _ e
  cases e
  change (if Machine.opcodes.command op = .unknown then f.shapeDefect else some .opcodeIsKnown) = none at h
  split at h
  · exact ⟨rfl, .inr (encodeFrame_length _ h)⟩
  · cases h

theorem waCommand : Statement .waCommand := by
  intro _ _ e
  cases e
  exact ⟨rfl, .inl rfl⟩

theorem waOther (b : Byte) : Statement (.waOther b) := by
  intro _ _ e
  cases e
  exact ⟨rfl, .inl rfl⟩

theorem init : Statement (.init) := fun _ _ e => nomatch e

theorem deliver (b : Byte) : Statement (.deliver b) := fun _ _ e => nomatch e

theorem take : Statement (.take) := fun _ _ e => nomatch e

theorem crc16 (bytes : List Byte) : Statement (.crc16 bytes) := fun _ _ e => nomatch e

theorem readZone (zone : Byte) (address : Half) (length : Byte) : Statement (.readZone zone address length) := fun _ _ e => nomatch e

theorem writeZone (zone : Byte) (address : Half) (bytes : List Byte) : Statement (.writeZone zone address bytes) := fun _ _ e => nomatch e

theorem lockConfig : Statement (.lockConfig) := fun _ _ e => nomatch e

theorem lockDataAndOtp : Statement (.lockDataAndOtp) := fun _ _ e => nomatch e

theorem isConfigLocked : Statement (.isConfigLocked) := fun _ _ e => nomatch e

theorem isDataAndOtpLocked : Statement (.isDataAndOtpLocked) := fun _ _ e => nomatch e

theorem storeKey (slot : Byte) (key : List Byte) (keyType : Byte) : Statement (.storeKey slot key keyType) := fun _ _ e => nomatch e

theorem generateKey (slot : Byte) (keyType : Byte) : Statement (.generateKey slot keyType) := fun _ _ e => nomatch e

theorem computeCombine (slot : Byte) (message : Bytes32) : Statement (.computeCombine slot message) := fun _ _ e => nomatch e

theorem deriveChild (parent : Byte) : Statement (.deriveChild parent) := fun _ _ e => nomatch e

theorem setState (d : DeviceState) : Statement (.setState d) := fun _ _ e => nomatch e

theorem frame (op param1 : Byte) (param2 : Half) (payload : List Byte) (crc : Byte) : Statement (.frame op param1 param2 payload crc) := fun _ _ e => nomatch e

theorem raw (bytes : List Byte) : Statement (.raw bytes) := fun _ _ e => nomatch e

end Sys2Proof.Laws.EncodedSize
end

