-- ==== Sys2Proof/Tests/Slice0.lean ====
section
/-! SUPPORT. Tests of the model, each one step with its expected result from spec/95_test_vectors.md or from the rule named,
and for every statement with hypotheses the witness that something meets them. -/

namespace Sys2Proof.Tests

open Sys2Proof.Machine

/-! ### Helpers -/

/-- The state an outcome answers; `s` if it answers none. -/
def nextOr (s : State) : Host.Outcome State Fault Refusal → State
  | .next t    => t
  | .fault _   => s
  | .refused _ => s

/-- The state after one instruction. -/
def after (i : Instr) (s : State) : State := nextOr s (exec i s)

/-- The draw `first, first + 1, ..` of 32 bytes. -/
def drawFrom (first : Byte) : Bytes32 := Vector.ofFn fun k => first + BitVec.ofNat 8 k

/-- The state INIT leaves, with the draws A0 .. BF and C0 .. DF presented. -/
def start : State := { State.reset with entropyIn := [drawFrom 0xA0, drawFrom 0xC0] }

/-- The bytes `first, first + 1, ..`. -/
def upFrom (first n : Nat) : List Byte := (List.range n).map fun k => BitVec.ofNat 8 (first + k)

/-- The state with the receive cursor and the first bytes of the receive buffer as given. -/
def receiving (pos : Byte) (buffer : List Byte) : State :=
  { State.reset.memWrite .command 0 buffer with packetPos := pos }

/-! ### WellFormed: an ill-formed term for each check, and well-formed ones at the bounds -/

theorem test_refused_tailLength : (Instr.random ⟨7, 0, 0, []⟩).defect = some .tailLength := by decide
theorem test_refused_tailLength_unknown : (Instr.unknown 0xAA ⟨6, 0, 0, [0]⟩).defect = some .tailLength := by decide
theorem test_refused_neverCompletes_one : (Instr.info ⟨1, 0, 0, []⟩).defect = some .neverCompletes := by decide
theorem test_refused_neverCompletes_129 :
    (Instr.info ⟨129, 0, 0, List.replicate 123 0⟩).defect = some .neverCompletes := by decide +kernel
theorem test_refused_opcodeIsKnown : (Instr.unknown 0x1B ⟨6, 0, 0, []⟩).defect = some .opcodeIsKnown := by decide
theorem test_refused_isCommandMarker : (Instr.waOther 0x03).defect = some .isCommandMarker := by decide
theorem test_refused_payloadTooLong :
    (Instr.frame 0x30 0 0 (List.replicate 122 0) 0).defect = some .payloadTooLong := by decide +kernel
theorem test_accepted_shortest : (Instr.sign ⟨2, 0, 0, []⟩).WellFormed := by decide
theorem test_accepted_longest : (Instr.write ⟨128, 0, 0, List.replicate 122 0⟩).WellFormed := by decide +kernel
theorem test_accepted_longest_payload : (Instr.frame 0x30 0 0 (List.replicate 121 0) 0).WellFormed := by decide +kernel

/-! ### Decode: words written out bit by bit from R81, R84, R86, R88: 00000011 LLLLLLLL op pppppppp qqqqqqqq QQQQQQQQ, then
the rest -/

/-- 03 07 op 5A 34 12 EE, so `param1` is 5A and `param2`, its low byte first, is 1234. -/
def sample (op : Byte) : List Byte :=
  [0b00000011, 0b00000111, op, 0b01011010, 0b00110100, 0b00010010, 0b11101110]

def sampleFrame : Frame := ⟨7, 0x5A, 0x1234, [0xEE]⟩

theorem test_decode_random : decode (sample 0b00011011) = .ok (.random sampleFrame, []) := by decide
theorem test_decode_nonce : decode (sample 0b00010110) = .ok (.nonce sampleFrame, []) := by decide
theorem test_decode_genkey : decode (sample 0b01000000) = .ok (.genkey sampleFrame, []) := by decide
theorem test_decode_sign : decode (sample 0b01000001) = .ok (.sign sampleFrame, []) := by decide
theorem test_decode_verify : decode (sample 0b01000101) = .ok (.verify sampleFrame, []) := by decide
theorem test_decode_read : decode (sample 0b00000010) = .ok (.read sampleFrame, []) := by decide
theorem test_decode_write : decode (sample 0b00010010) = .ok (.write sampleFrame, []) := by decide
theorem test_decode_lock : decode (sample 0b00010111) = .ok (.lock sampleFrame, []) := by decide
theorem test_decode_info : decode (sample 0b00110000) = .ok (.info sampleFrame, []) := by decide
/-- The marker value is no command opcode (V6.11). -/
theorem test_decode_unknown : decode (sample 0b00000011) = .ok (.unknown 0x03 sampleFrame, []) := by decide
theorem test_decode_waCommand : decode [0b00000011] = .ok (.waCommand, []) := by decide
theorem test_decode_waOther : decode [0b00000010, 0b00000011] = .ok (.waOther 0x02, [0x03]) := by decide
/-- V6.15: a payload of four bytes, then the CRC position. -/
theorem test_decode_payload :
    decode [0x03, 0x0B, 0x12, 0x02, 0x10, 0x00, 0xDE, 0xAD, 0xBE, 0xEF, 0x77, 0x03] =
      .ok (.write ⟨0x0B, 0x02, 0x0010, [0xDE, 0xAD, 0xBE, 0xEF, 0x77]⟩, [0x03]) := by decide
theorem test_payload_and_crc :
    Frame.payload ⟨0x0B, 0x02, 0x0010, [0xDE, 0xAD, 0xBE, 0xEF, 0x77]⟩ = [0xDE, 0xAD, 0xBE, 0xEF] ∧
    Frame.crc ⟨0x0B, 0x02, 0x0010, [0xDE, 0xAD, 0xBE, 0xEF, 0x77]⟩ = some 0x77 := by decide
theorem test_decode_nothing : decode [] = .error .noByte := by decide
theorem test_decode_truncated : decode [0x03, 0x08, 0x1B, 0, 0, 0, 0] = .error .truncatedFrame := by decide
theorem test_decode_no_fixed_fields : decode [0x03, 0x07, 0x1B] = .error .truncatedFrame := by decide

/-! ### What the host asks: the table's words, and the step that runs one as the first instruction after reset -/

theorem test_tableWord_zero_fields : decodeTableWord 48 0x030012000000 = some (.write ⟨0, 0, 0, []⟩) := by decide
theorem test_tableWord_long : decodeTableWord 48 0x030930000000 = some (.info ⟨9, 0, 0, [0, 0, 0]⟩) := by decide
theorem test_tableWord_waOther : decodeTableWord 8 0xFF = some (.waOther 0xFF) := by decide

theorem test_fetched_lock_runs :
    (nextOr State.reset (step (State.reset.withFetchWord 48 0x030017000000))).executionTime = 32 := by decide
theorem test_fetched_unknown_runs :
    let t := nextOr State.reset (step (State.reset.withFetchWord 48 0x030900000000))
    t.lastError = 7 ∧ t.packetPos = 0 ∧ t.requests = [] := by decide
theorem test_fetched_longest_runs :
    (nextOr State.reset (step (State.reset.withFetchWord 48 0x038040000000))).executionTime = 115 := by decide +kernel
theorem test_fetched_wordAddress_runs :
    (nextOr State.reset (step (State.reset.withFetchWord 8 0x03))).framerState = .accumulatingFrame ∧
    (nextOr State.reset (step (State.reset.withFetchWord 8 0x02))).framerState = .accumulatingNonCommand := by decide

/-! ### Commands: V6.1 to V6.18, the whole frame delivered after INIT -/

/-- `INIT; RAW 03 07 op 5A 34 12 EE`. -/
def framed (op : Byte) : State := after (.raw (sample op)) start

/-- What every row of section 6 says: the cursors, `lastError`, `executionTime` and the first bytes of the reply. -/
def row (t : State) : Byte × Byte × BitVec 8 × BitVec 32 × List Byte :=
  (t.packetPos, t.responsePos, t.lastError, t.executionTime, t.memRead .response 0 3)

theorem test_V6_1_read : row (framed 0x02) = (0, 0, 0, 1, [0, 0, 0]) := by decide
theorem test_V6_2_write : row (framed 0x12) = (0, 0, 0, 26, [0, 0, 0]) := by decide
theorem test_V6_3_nonce : row (framed 0x16) = (0, 0, 0, 7, [0, 0, 0]) := by decide
theorem test_V6_4_lock : row (framed 0x17) = (0, 0, 0, 32, [0, 0, 0]) := by decide
theorem test_V6_5_random : row (framed 0x1B) = (0, 0, 0, 23, [0, 0xA0, 0xA1]) := by decide
theorem test_V6_5_random_end : (framed 0x1B).memRead .response 31 3 = [0xBE, 0xBF, 0x00] := by decide
theorem test_V6_6_info : row (framed 0x30) = (0, 0, 0, 1, [0, 0, 0]) := by decide
theorem test_V6_7_genkey : row (framed 0x40) = (0, 0, 0, 115, [0, 0, 0]) := by decide
theorem test_V6_8_sign : row (framed 0x41) = (0, 0, 0, 60, [0, 0, 0]) := by decide
theorem test_V6_9_verify : row (framed 0x45) = (0, 0, 0, 72, [0, 0, 0]) := by decide
theorem test_V6_14_unknown : row (framed 0xFF) = (0, 0, 7, 0, [0, 0, 0]) := by decide
theorem test_V6_15_write_writes_no_zone :
    let t := after (.raw [0x03, 0x0B, 0x12, 0x02, 0x10, 0x00, 0xDE, 0xAD, 0xBE, 0xEF, 0x77]) start
    t.executionTime = 26 ∧ t.dataZone = [] ∧ t.otpZone = [] ∧ t.configZone = [] ∧
    t.memRead .command 5 6 = [0x00, 0xDE, 0xAD, 0xBE, 0xEF, 0x77] := by decide
theorem test_V6_16_lock_locks_nothing :
    (framed 0x17).configLocked = false ∧ (framed 0x17).dataOtpLocked = false := by decide
theorem test_V6_17_genkey_draws_nothing :
    (framed 0x40).dataZone = [] ∧ (framed 0x40).entropyIn = start.entropyIn := by decide
theorem test_V6_18_unknown_keeps_the_time :
    (after (.unknown 0xAA sampleFrame) (framed 0x40)).executionTime = 115 := by decide

/-! ### The framer: V5, S1, P1, P4 -/

theorem test_V5_1_deliver_completes :
    let t := after (.deliver 0x24) (receiving 6 [0x03, 0x07, 0x1B, 0, 0, 0])
    t.packetPos = 0 ∧ t.executionTime = 23 ∧ t.framerState = .awaitingWordAddress ∧ t.readByte .command 6 = 0x24 := by
  decide
theorem test_V5_1_deliver_accumulates :
    let t := after (.deliver 0x00) (receiving 5 [0x03, 0x07, 0x1B, 0, 0])
    t.packetPos = 6 ∧ t.executionTime = 0 ∧ t.framerState = .accumulatingFrame := by decide
theorem test_V5_1_waCommand :
    (after .waCommand start).packetPos = 1 ∧ (after .waCommand start).framerState = .accumulatingFrame := by decide
theorem test_V5_5_waOther :
    let t := after (.waOther 0x00) (receiving 0 [0x03, 0x02])
    t.packetPos = 1 ∧ t.framerState = .accumulatingNonCommand ∧ t.memRead .command 0 2 = [0x00, 0x02] := by decide
theorem test_V5_3_take_last :
    let t := after .take { State.reset with responsePos := 127, responsePacket := [(127, 0x5A)] }
    t.responsePos = 128 ∧ t.response.result = .byte 0x5A := by decide
theorem test_V5_3_take_drained :
    let t := after .take { State.reset with responsePos := 128, responsePacket := [(127, 0x5A)] }
    t.responsePos = 128 ∧ t.response.result = .byte 0x00 := by decide
/-- S1: three bytes complete the frame, the next three open a write of their own. -/
theorem test_S1_raw :
    let t := after (.raw [0x03, 0x03, 0x1B, 0x00, 0x00, 0x00]) { State.reset with entropyIn := [drawFrom 0x10] }
    row t = (3, 0, 0, 23, [0x00, 0x10, 0x11]) ∧ t.memRead .command 0 3 = [0, 0, 0] ∧
    t.framerState = .accumulatingNonCommand := by decide
/-- P4: length 2 dispatches the stale opcode, which after INIT is 00. -/
theorem test_P4_raw :
    row (after (.raw [0x03, 0x02]) start) = (0, 0, 7, 0, [0, 0, 0]) ∧
    row (after (.raw [0x03, 0x02]) (framed 0x1B)) = (0, 0, 0, 23, [0, 0xC0, 0xC1]) := by decide +kernel
/-- P1: `FRAME RANDOM 00 0000 24` is 03 07 1B 00 00 00 24. -/
theorem test_P1_frame :
    let t := after (.frame 0x1B 0x00 0x0000 [] 0x24) start
    row t = (0, 0, 0, 23, [0x00, 0xA0, 0xA1]) ∧
    t.memRead .command 0 8 = [0x03, 0x07, 0x1B, 0, 0, 0, 0x24, 0x00] := by decide
theorem test_frame_expansion :
    frameExpansion 0x12 0x02 0x0008 [0xDE, 0xAD, 0xBE, 0xEF] 0x00 =
      [0x03, 0x0B, 0x12, 0x02, 0x08, 0x00, 0xDE, 0xAD, 0xBE, 0xEF, 0x00] := by decide
theorem test_requests_of_a_line :
    (requestsOf (.raw [0x03, 0x02])).map Subtype.val = [.deliver 0x03, .deliver 0x02] ∧
    (requestsOf .waCommand).map Subtype.val = [.deliver 0x03] := by decide
/-- R82, R83: a frame of declared length L has L bytes; a length that never completes cuts nothing (log 34). -/
theorem test_lines_of_short_frames :
    lineBytes [0x03, 0x01, 0x30, 0, 0, 0] = [0x03, 0x01, 0x30, 0, 0, 0] ∧
    lineBytes [0x03, 0x02, 0x30, 0, 0, 0] = [0x03, 0x02] ∧
    lineBytes [0x03, 0x05, 0x30, 0x5A, 0x34, 0x12] = [0x03, 0x05, 0x30, 0x5A, 0x34] ∧
    lineBytes (sample 0x30) = sample 0x30 := by decide
/-- V5.2, V5.5, P5: the three wedges, at their bounds. -/
theorem test_wedges :
    (receiving 1 [0x00]).Wedged ∧ (receiving 2 [0x03, 0x01]).Wedged ∧ (receiving 2 [0x03, 0x81]).Wedged ∧
    ¬ (receiving 2 [0x03, 0x80]).Wedged ∧ ¬ (receiving 1 [0x03, 0x00]).Wedged ∧ ¬ (receiving 0 [0x00]).Wedged := by
  decide

/-! ### INIT and setState: V7, V3.20 -/

/-- A state in which nothing is as INIT leaves it. -/
def used : State :=
  { state := .sleep, lastError := 3, packetPos := 9, responsePos := 4, executionTime := 60,
    configZone := [(86, 0x00), (87, 0x00)], otpZone := [(0, 0xAA)], dataZone := [(96, 0x11)],
    commandPacket := [(0, 0x03), (1, 0x20)], responsePacket := [(1, 0xA0)], initDone := true,
    requests := [], entropyIn := [], drawCount := 1, response := ⟨.ok, some true⟩ }

theorem test_init : after .init used = { State.reset with drawCount := 1 } := by decide
theorem test_V7_4_setState : after (.setState .active) (after (.setState .active) used) =
    { used with state := .active, response := .quiet } := by decide
theorem test_status :
    used.status = ⟨1, 3, 60, true, true⟩ ∧ State.reset.status = ⟨0, 0, 0, false, false⟩ := by decide

/-! ### Zones and locks: V3 -/

theorem test_V3_1_writeZone :
    let t := after (.writeZone 2 64 (upFrom 1 32)) start
    t.response.result = .ok ∧ t.memRead .data 63 3 = [0x00, 0x01, 0x02] ∧ t.memRead .data 95 2 = [0x20, 0x00] := by decide
theorem test_V3_3_writeZone_fails :
    after (.writeZone 2 1000 (upFrom 1 32)) start =
      { start with lastError := 3, response := ⟨.error, some false⟩ } := by decide
theorem test_V3_9_readZone :
    (after (.readZone 1 32 32) start).response = ⟨.bytes (List.replicate 32 0x00), some false⟩ := by decide
theorem test_V3_readZone_codes :
    (after (.readZone 0 0 33) used).lastError = 1 ∧ (after (.readZone 3 0 40) used).lastError = 2 ∧
    (after (.readZone 255 65535 255) used).lastError = 2 ∧ (after (.readZone 0 65535 32) start).lastError = 3 ∧
    (after (.readZone 0 129 0) start).lastError = 3 ∧ (after (.readZone 0 128 0) start).response.result = .bytes [] := by
  decide
theorem test_V3_15_lockConfig :
    (after .lockConfig start).memRead .config 86 2 = [0xFF, 0x00] ∧ (after .lockConfig start).dataOtpLocked = false := by
  decide
theorem test_V3_18_lockDataAndOtp :
    (after .lockDataAndOtp start).memRead .config 86 2 = [0x00, 0xFF] ∧
    after .lockDataAndOtp (after .lockDataAndOtp start) = after .lockDataAndOtp start := by decide
theorem test_V3_16_V3_17_locks_gate_no_write :
    let t := after (.writeZone 0 0 [0x01, 0x02]) (after .lockConfig start)
    t.response = ⟨.ok, some true⟩ ∧ t.memRead .config 0 3 = [0x01, 0x02, 0xFF] ∧
    (after (.writeZone 0 86 [0x55, 0x55]) (after .lockConfig start)).configLocked = false := by decide
theorem test_V3_15_isConfigLocked :
    (after .isConfigLocked (after .lockConfig start)).response.result = .bool true ∧
    (after .isConfigLocked (after .lockDataAndOtp start)).response.result = .bool false := by decide
theorem test_V3_18_isDataAndOtpLocked :
    (after .isDataAndOtpLocked (after .lockDataAndOtp start)).response.result = .bool true ∧
    (after .isDataAndOtpLocked (after .lockConfig start)).response.result = .bool false := by decide

/-! ### The Key Store: V4 -/

/-- After V4.1. -/
def keyed : State := after (.storeKey 3 (upFrom 0 32) 0) start

theorem test_V4_1_storeKey :
    keyed.response.result = .ok ∧ keyed.memRead .data 95 3 = [0x00, 0x00, 0x01] ∧ keyed.memRead .data 127 2 = [0x1F, 0x00] := by
  decide
theorem test_V4_3_storeKey_codes :
    (after (.storeKey 16 (upFrom 0 40) 0) start).lastError = 8 ∧ (after (.storeKey 2 (upFrom 0 40) 0) start).lastError = 1 ∧
    (after (.storeKey 15 (List.replicate 32 0xEE) 0) start).memRead .data 510 3 = [0xEE, 0xEE, 0x00] := by decide
theorem test_V4_10_generateKey :
    let t := after (.generateKey 0 0) start
    t.response.result = .ok ∧ t.memRead .data 0 2 = [0xA0, 0xA1] ∧ t.memRead .data 31 2 = [0xBF, 0x00] := by decide
theorem test_V4_11_generateKey_fails :
    let t := after (.generateKey 16 0) start
    t.lastError = 8 ∧ t.dataZone = [] ∧ t.entropyIn = [drawFrom 0xC0] := by decide
theorem test_V4_4_computeCombine :
    (after (.computeCombine 3 (Vector.replicate 32 0xFF)) keyed).response.result =
      .bytes ((upFrom 0 32).map fun b => 0xFF - b) := by decide
theorem test_V4_9_computeCombine_fails :
    (after (.computeCombine 255 (drawFrom 0)) start).lastError = 8 := by decide
theorem test_V4_6_deriveChild :
    (after (.deriveChild 3) keyed).response.result = .bytes
      [0x01, 0x03, 0x01, 0x07, 0x01, 0x03, 0x01, 0x0F, 0x01, 0x03, 0x01, 0x07, 0x01, 0x03, 0x01, 0x1F,
       0x01, 0x03, 0x01, 0x07, 0x01, 0x03, 0x01, 0x0F, 0x01, 0x03, 0x01, 0x07, 0x01, 0x03, 0x01, 0x3F] := by decide
theorem test_V4_8_deriveChild_fails :
    (after (.deriveChild 16) start).response.result = .error ∧ (after (.deriveChild 16) start).lastError = 8 := by decide

/-! ### The CRC Engine: V2 and the trace of R113 -/

theorem test_R113_trace :
    [true, false, false, false].foldl crcBit 0 = 0x8033 ∧
    [true, false, false, false, false, false, false, false].foldl crcBit 0 = 0x8303 := by decide
theorem test_V2_4_crc16 : (after (.crc16 [0x01]) start).response.result = .word 0x8303 := by decide
theorem test_V2_12_crc16 : crc16 [0x04, 0x11] = 0x4333 := by decide +kernel
theorem test_V2_19_crc16_digits : crc16 (upFrom 0x31 9) = 0xBCDD := by decide +kernel

/-! ### Memory -/

theorem test_memory_canonical :
    after (.writeZone 2 5 [0x00, 0x01]) start = after (.writeZone 2 6 [0x01]) start ∧
    (after (.writeZone 2 6 [0x00]) (after (.writeZone 2 6 [0x01]) start)).dataZone = [] := by decide

/-! ### Witnesses: for every statement with hypotheses, or with clauses over one input, values that meet them, at the bounds -/

/-- What makes a state legal whose zones and reply are as INIT leaves them. -/
theorem inv_of_fresh {s : State} (h : s.configZone = [] ∧ s.otpZone = [] ∧ s.dataZone = [] ∧ s.responsePacket = [])
    (hc : Memory.wf .command s.commandPacket)
    (hr : s.packetPos.toNat ≤ 128 ∧ s.responsePos.toNat ≤ 128 ∧ s.lastError ∈ legalErrors ∧ s.executionTime ∈ legalTimes)
    (hn : 2 ≤ s.packetPos.toNat → s.readByte .command 0 = 0x03 →
      s.packetPos ≠ s.readByte .command 1 ∧
      ((s.readByte .command 1).toNat < 2 ∨ s.packetPos.toNat < (s.readByte .command 1).toNat)) : s.Inv := by
  obtain ⟨h1, h2, h3, h4⟩ := h
  obtain ⟨r1, r2, r3, r4⟩ := hr
  refine ⟨fun sp => ?_, r1, r2, r3, r4, fun a b => (hn a b).1, fun a b => (hn a b).2, fun a _ => ?_⟩
  · cases sp
    · show Memory.wf .config s.configZone; rw [h1]; exact Memory.wf_nil _
    · show Memory.wf .otp s.otpZone; rw [h2]; exact Memory.wf_nil _
    · show Memory.wf .data s.dataZone; rw [h3]; exact Memory.wf_nil _
    · exact hc
    · show Memory.wf .response s.responsePacket; rw [h4]; exact Memory.wf_nil _
  · show Memory.read Space.response.erased s.responsePacket a = 0x00
    rw [h4]; rfl

/-- `s` with these requests waiting. -/
def asked (s : State) (rs : List Request) : State := { s with requests := rs }

theorem witness_StepKeepsTheInvariant :
    (asked (receiving 1 [0x03]) [Request.deliver 0x80]).Inv ∧
    step (asked (receiving 1 [0x03]) [Request.deliver 0x80]) = .next (after (.deliver 0x80) (receiving 1 [0x03])) ∧
    (asked (receiving 128 [0x03, 0x01]) [Request.deliver 0x55]).Inv ∧
    step (asked (receiving 128 [0x03, 0x01]) [Request.deliver 0x55]) = .next (receiving 128 [0x03, 0x01]) :=
  ⟨inv_of_fresh (by decide) (by decide) (by decide) (by decide), rfl,
    inv_of_fresh (by decide) (by decide) (by decide) (by decide), rfl⟩

theorem witness_EveryReachableStateMeetsTheInvariant :
    Reachable (after .take { State.reset with requests := [], entropyIn := [drawFrom 0] }) :=
  .step { State.reset with requests := [Request.take], entropyIn := [drawFrom 0] } _ (.reset _ _) rfl

theorem witness_StepRunsTheNextRequest :
    (asked start [Request.take]).initDone = true ∧ (asked start [Request.take]).requests = Request.take :: [] ∧
    start.requests = [] := by decide

theorem witness_BeforeInitOnlyInitRuns :
    let s (r : Request) : State := { State.reset with initDone := false, requests := [r] }
    (s Request.take).initDone = false ∧ (s Request.take).requests = Request.take :: [] ∧ Request.take.val ≠ .init ∧
    (s ⟨.init, rfl⟩).initDone = false ∧ (s ⟨.init, rfl⟩).requests = ⟨.init, rfl⟩ :: [] := by decide

theorem witness_StepRunsTheDecodedCommand :
    (asked (receiving 1 [0x03]) [Request.deliver 0x02]).initDone = true ∧
    dispatches 0x02 (asked (receiving 1 [0x03]) [Request.deliver 0x02]) = true ∧
    dispatches 0x99 (asked (receiving 127 [0x03, 0x80]) [Request.deliver 0x99]) = true ∧
    (asked (receiving 127 [0x03, 0x80]) [Request.deliver 0x99]).requests = Request.deliver 0x99 :: [] := by decide

theorem witness_FirstByteRunsTheWordAddress : (framed 0x1B).packetPos = 0 ∧ (1 : Nat) ≠ 0 := by decide

theorem witness_DecodeOfEncodeIsTheInstruction :
    (Instr.random ⟨0, 0, 0, []⟩).WellShaped ∧ encode (.random ⟨0, 0, 0, []⟩) = some [0x03, 0, 0x1B, 0, 0, 0] ∧
    (Instr.unknown 0xFF ⟨7, 0xFF, 0xFFFF, [0xFF]⟩).WellShaped ∧
    encode (.unknown 0xFF ⟨7, 0xFF, 0xFFFF, [0xFF]⟩) = some [0x03, 7, 0xFF, 0xFF, 0xFF, 0xFF, 0xFF] ∧
    (Instr.waOther 0xFF).WellShaped ∧ encode (.waOther 0xFF) = some [0xFF] ∧ Instr.waOther 0xFF ≠ .waCommand := by decide

theorem witness_EncodeOfDecodeIsTheBytes :
    decode [0x03, 0x02, 0x1B, 0x00, 0x34, 0x12, 0x03] = .ok (.random ⟨2, 0, 0x1234, []⟩, [0x03]) ∧
    decode [0x03] = .ok (.waCommand, []) := by decide

theorem witness_OpcodeMapDecodesByName :
    let m : OpcodeMap := ⟨0, 1, 2, 3, 4, 5, 6, 7, 0xFF⟩
    m.Distinct ∧ m.byteOf .random = some 0 ∧ m.byteOf .info = some 0xFF ∧ (8 : Byte) ∉ m.bytes := by decide

theorem witness_RandomBuildsTheReply : (33 : Nat) ≤ 33 ∧ start.nextDraw = drawFrom 0xA0 := by decide

theorem witness_FailingOperationChangesOnlyLastError :
    (Instr.storeKey 16 [] 0).isRequest = true ∧ Instr.storeKey 16 [] 0 ≠ .init ∧ (∀ b, Instr.storeKey 16 [] 0 ≠ .deliver b) ∧
    exec (.storeKey 16 [] 0) start = .next (after (.storeKey 16 [] 0) start) ∧
    (after (.storeKey 16 [] 0) start).response.result = .error ∧
    exec (.storeKey 15 [] 0) start = .next (after (.storeKey 15 [] 0) start) ∧
    (after (.storeKey 15 [] 0) start).response.result ≠ .error :=
  ⟨by decide, by decide, nofun, rfl, by decide, rfl, by decide⟩

theorem witness_FailedZoneRequestMutatesNothing :
    exec (.readZone 1 33 32) start = .next (after (.readZone 1 33 32) start) ∧
    (after (.readZone 1 33 32) start).response.result = .error ∧
    exec (.writeZone 2 1024 [0x01]) start = .next (after (.writeZone 2 1024 [0x01]) start) ∧
    (after (.writeZone 2 1024 [0x01]) start).response.result = .error :=
  ⟨rfl, by decide, rfl, by decide⟩

theorem witness_LastErrorIsSticky :
    Instr.unknown 0xAA sampleFrame ≠ .init ∧
    exec (.unknown 0xAA sampleFrame) start = .next (after (.unknown 0xAA sampleFrame) start) := ⟨by decide, rfl⟩

theorem witness_DeliverStoresDispatchesOrDrops :
    dispatches 0x99 (receiving 127 [0x03, 0x80]) = true ∧ dispatches 0x99 (receiving 127 [0x03, 0x81]) = false ∧
    (receiving 127 [0x03, 0x81]).packetPos.toNat < 128 ∧ dispatches 0x99 (receiving 128 [0x03, 0x81]) = false ∧
    ¬ (receiving 128 [0x03, 0x81]).packetPos.toNat < 128 := by decide

theorem witness_FramerTransitionTable :
    (receiving 0 []).framerState = .awaitingWordAddress ∧
    (receiving 1 [0x03]).framerState = .accumulatingFrame ∧ (receiving 1 [0x03]).packetPos = 1 ∧
    (receiving 2 [0x03, 0x03]).framerState = .accumulatingFrame ∧ (2 : Nat) ≤ (receiving 2 [0x03, 0x03]).packetPos.toNat ∧
    (receiving 2 [0x03, 0x03]).packetPos.toNat + 1 = (receiving 2 [0x03, 0x03]).declaredLength.toNat ∧
    (receiving 127 [0x03, 0x81]).framerState = .accumulatingFrame ∧ (receiving 127 [0x03, 0x81]).packetPos.toNat ≤ 127 ∧
    (receiving 127 [0x03, 0x81]).packetPos.toNat + 1 ≠ (receiving 127 [0x03, 0x81]).declaredLength.toNat ∧
    (receiving 128 [0x03, 0x01]).framerState = .accumulatingFrame ∧ (receiving 128 [0x03, 0x01]).packetPos.toNat = 128 ∧
    (receiving 127 [0x04]).framerState = .accumulatingNonCommand ∧ (receiving 127 [0x04]).packetPos.toNat ≤ 127 ∧
    (receiving 128 [0x04]).framerState = .accumulatingNonCommand ∧ (receiving 128 [0x04]).packetPos.toNat = 128 := by decide

theorem witness_FullBufferDropsEveryByte :
    (receiving 128 [0x03, 0x01]).packetPos = 128 ∧
    (receiving 127 [0x03, 0x80]).packetPos = 127 ∧ (receiving 127 [0x03, 0x80]).readByte .command 0 = 0x03 ∧
    (receiving 127 [0x03, 0x80]).readByte .command 1 = 128 ∧
    (receiving 127 [0x03, 0x01]).Inv ∧ (receiving 127 [0x03, 0x01]).packetPos ≠ 128 ∧
    exec (.deliver 0x55) (receiving 127 [0x03, 0x01]) = .next (after (.deliver 0x55) (receiving 127 [0x03, 0x01])) ∧
    (after (.deliver 0x55) (receiving 127 [0x03, 0x01])).packetPos = 128 ∧
    Instr.take ≠ .init ∧ exec .take (receiving 128 [0x03, 0x01]) = .next (after .take (receiving 128 [0x03, 0x01])) :=
  ⟨by decide, by decide, by decide, by decide, inv_of_fresh (by decide) (by decide) (by decide) (by decide), by decide, rfl,
    by decide, by decide, rfl⟩

theorem witness_TakeGivesTheNextReplyByte :
    128 ≤ ({ State.reset with responsePos := 128 } : State).responsePos.toNat ∧
    ¬ 128 ≤ ({ State.reset with responsePos := 127 } : State).responsePos.toNat := by decide

theorem witness_TakeAndDeliverCommute :
    let s := receiving 2 [0x03, 0x03]
    exec .take s = .next (after .take s) ∧ exec (.deliver 0x1B) s = .next (after (.deliver 0x1B) s) ∧
    (dispatches 0x1B s = true ∧ opcodes.command (s.begin.store 0x1B).opcode = .random) ∧
    exec (.deliver 0x30) s = .next (after (.deliver 0x30) s) ∧
    ¬ (dispatches 0x30 s = true ∧ opcodes.command (s.begin.store 0x30).opcode = .random) :=
  ⟨rfl, rfl, by decide, rfl, by decide⟩

theorem witness_WedgedFramerStaysWedged :
    (receiving 1 [0x00]).Wedged ∧ Instr.deliver 0x03 ≠ .init ∧
    exec (.deliver 0x03) (receiving 1 [0x00]) = .next (after (.deliver 0x03) (receiving 1 [0x00])) ∧
    (∃ b, Instr.deliver 0x03 = .deliver b) ∧ (receiving 128 [0x03, 0x81]).Wedged :=
  ⟨by decide, by decide, rfl, ⟨_, rfl⟩, by decide⟩

theorem witness_ThreePatternsWedge :
    (receiving 2 [0x03, 0x01]).Inv ∧ (receiving 2 [0x03, 0x01]).Wedged ∧ (receiving 127 [0x03, 0x80]).Inv ∧
    ¬ (receiving 127 [0x03, 0x80]).Wedged :=
  ⟨inv_of_fresh (by decide) (by decide) (by decide) (by decide), by decide,
    inv_of_fresh (by decide) (by decide) (by decide) (by decide), by decide⟩

theorem witness_LengthTwoRepeatsTheStaleOpcode : (framed 0x1B).packetPos = 0 ∧ (framed 0x1B).opcode = 0x1B := by decide

theorem witness_FrameDispatchesItsCommandOnce :
    (framed 0x1B).packetPos = 0 ∧ ([] : List Byte).length ≤ 121 ∧ (List.replicate 121 (0x55 : Byte)).length ≤ 121 :=
  ⟨by decide, by decide, by simp⟩

theorem witness_RawRequestsStepToItsMeaning :
    start.initDone = true ∧ exec (.raw [0x03, 0x02]) (start.withRequests [Request.take]) =
      .next (after (.raw [0x03, 0x02]) (start.withRequests [Request.take])) := ⟨by decide, rfl⟩

/-- A RANDOM frame and 34 TAKEs waiting, as in P1. -/
def programP1 : State :=
  asked start (deliverRequests (frameExpansion opcodes.random 0x00 0x0000 [] 0x24) ++
    List.replicate (33 + 1) Request.take ++ [])

theorem witness_RandomFrameIsReadBackByTakes :
    programP1.Inv ∧ programP1.initDone = true ∧ programP1.packetPos = 0 ∧ ([] : List Byte).length ≤ 121 ∧
    programP1.requests = deliverRequests (frameExpansion opcodes.random 0x00 0x0000 [] 0x24) ++
      List.replicate (33 + 1) Request.take ++ [] :=
  ⟨inv_of_fresh (by decide) (by decide) (by decide) (by decide), by decide, by decide, by decide, rfl⟩

/-- V3.11 to V3.13e: each clause of the mapper at its bound. -/
theorem witness_MapperChecksZoneLengthRange :
    mapZone 3 0 33 = .reject .invalidZone ∧ mapZone 2 1024 33 = .reject .lengthTooLarge ∧
    mapZone 0 96 32 = .hit .config 96 32 ∧ mapZone 0 97 32 = .reject .outOfRange ∧
    mapZone 1 64 0 = .hit .otp 64 0 ∧ mapZone 1 65 0 = .reject .outOfRange ∧
    mapZone 2 992 32 = .hit .data 992 32 ∧ mapZone 2 65535 1 = .reject .outOfRange := by decide

theorem witness_ReadZoneCopiesTheRangeOrFails :
    mapZone 2 (0xFFFF : Half).toNat (1 : Byte).toNat = .reject .outOfRange ∧
    mapZone 2 (1023 : Half).toNat (1 : Byte).toNat = .hit .data 1023 1 := by decide

theorem witness_WriteZoneOverwritesTheRangeOrFails :
    mapZone 0 (87 : Half).toNat [(0x00 : Byte)].length = .hit .config 87 1 ∧
    mapZone 0 (128 : Half).toNat [(0x00 : Byte)].length = .reject .outOfRange ∧
    ¬ (Space.config = Space.config ∧ 87 ≤ 88 ∧ 88 < 87 + 1) := by decide

theorem witness_WriteThenReadRoundTrip :
    exec (.writeZone 0 96 (upFrom 1 32)) start = .next (after (.writeZone 0 96 (upFrom 1 32)) start) ∧
    (after (.writeZone 0 96 (upFrom 1 32)) start).response.result = .ok := ⟨rfl, by decide⟩

theorem witness_LockBytes : (86 : Nat) ≠ 87 ∧ (after .lockConfig start).configLocked = true ∧
    (after .lockDataAndOtp start).dataOtpLocked = true := by decide

/-- Writes that end just below and begin just above a lock byte. -/
theorem witness_LocksAreClearedOnlyByInitOrConfigWrite :
    Instr.writeZone 0 86 [0x55] ≠ .init ∧ (after .lockConfig start).configLocked = true ∧
    exec (.writeZone 0 86 [0x55]) (after .lockConfig start) =
      .next (after (.writeZone 0 86 [0x55]) (after .lockConfig start)) ∧
    (∀ a bytes, Instr.writeZone 0 86 [0x55] = .writeZone 0 a bytes → ¬ (a.toNat ≤ 87 ∧ 87 < a.toNat + bytes.length)) ∧
    (after .lockDataAndOtp start).dataOtpLocked = true ∧
    exec (.writeZone 0 87 [0x55]) (after .lockDataAndOtp start) =
      .next (after (.writeZone 0 87 [0x55]) (after .lockDataAndOtp start)) ∧
    (∀ a bytes, Instr.writeZone 0 87 [0x55] = .writeZone 0 a bytes → ¬ (a.toNat ≤ 86 ∧ 86 < a.toNat + bytes.length)) :=
  ⟨by decide, by decide, rfl, fun _ _ h => by cases h; decide, by decide, rfl, fun _ _ h => by cases h; decide⟩

theorem witness_TheBusReachesNoZone :
    (Instr.write sampleFrame).isRequest = false ∧ exec (.write sampleFrame) used = .next (after (.write sampleFrame) used) ∧
    Instr.take = .take ∧ exec .take used = .next (after .take used) ∧
    (∃ b, Instr.deliver 0x03 = .deliver b) ∧ exec (.deliver 0x03) used = .next (after (.deliver 0x03) used) :=
  ⟨rfl, rfl, rfl, rfl, ⟨_, rfl⟩, rfl⟩

theorem witness_ServiceOperationsLeaveTheBusSide :
    Instr.lockConfig.isRequest = true ∧ Instr.lockConfig ≠ .init ∧ Instr.lockConfig ≠ .take ∧
    (∀ b, Instr.lockConfig ≠ .deliver b) ∧ exec .lockConfig used = .next (after .lockConfig used) :=
  ⟨rfl, nofun, nofun, nofun, rfl⟩

theorem witness_OnlyInitAndSetStateMoveState :
    exec .init used = .next (after .init used) ∧ exec (.setState .active) used = .next (after (.setState .active) used) ∧
    exec .lockConfig used = .next (after .lockConfig used) := ⟨rfl, rfl, rfl⟩

theorem witness_DeviceStateGatesNothing :
    Instr.random sampleFrame ≠ .init ∧ (∀ e, Instr.random sampleFrame ≠ .setState e) ∧
    exec (.random sampleFrame) used = .next (after (.random sampleFrame) used) := ⟨by decide, nofun, rfl⟩

/-- The slots and key lengths at their bounds, for the four operations of the Key Store. -/
theorem witness_KeyStoreClauses :
    16 ≤ (16 : Byte).toNat ∧ ¬ 16 ≤ (15 : Byte).toNat ∧ 32 < (upFrom 0 33).length ∧ ¬ 32 < (upFrom 0 32).length ∧
    (after (.storeKey 15 (upFrom 0 33) 0) start).lastError = 1 ∧ (after (.generateKey 15 0) start).lastError = 0 ∧
    (after (.computeCombine 15 (drawFrom 0)) start).lastError = 0 ∧
    (after (.computeCombine 16 (drawFrom 0)) start).lastError = 8 ∧
    (after (.deriveChild 15) start).lastError = 0 := by decide

theorem witness_CombiningTwiceGivesTheMessageBack :
    (15 : Byte).toNat < 16 ∧
    exec (.computeCombine 15 (drawFrom 0x40)) start = .next (after (.computeCombine 15 (drawFrom 0x40)) start) ∧
    (after (.computeCombine 15 (drawFrom 0x40)) start).response.result = .bytes (drawFrom 0x40).toList ∧
    exec (.computeCombine 15 (drawFrom 0x40)) (after (.computeCombine 15 (drawFrom 0x40)) start) =
      .next (after (.computeCombine 15 (drawFrom 0x40)) (after (.computeCombine 15 (drawFrom 0x40)) start)) :=
  ⟨by decide, rfl, by decide, rfl⟩

/-- V2.22. -/
theorem witness_CrcIsLinear :
    [(0x12 : Byte), 0x34, 0x56].length = [(0xAB : Byte), 0xCD, 0xEF].length ∧ crc16 [0x12, 0x34, 0x56] = 0x6CDF ∧
    crc16 [0xAB, 0xCD, 0xEF] = 0x263F ∧ crc16 [0xB9, 0xF9, 0xB9] = 0x4AE0 := by decide +kernel

end Sys2Proof.Tests
end

section
/-! PROOFS. The scope of the model (spec/00_scope.md): the host's step, the DELIVERs of RAW, and what wedged means. -/

namespace Sys2Proof.Machine

/-! ### The host's step (R7, R300, R301) -/

/-- With no request waiting, a step is idle. -/
theorem step_of_requests_nil {s : State} (h : s.requests = []) : step s = .next s := by
  simp [step, h]

/-- With a request waiting, a step runs it or refuses it, as `State.admits` says. -/
theorem step_of_requests_cons {s : State} {r : Request} {rest : List Request} (h : s.requests = r :: rest) :
    step s = if s.admits r.val then exec r.val (s.withRequests rest) else .refused .beforeFirstInit := by
  simp [step, h]

theorem State.admits_of_initDone {s : State} (h : s.initDone = true) (i : Instr) : s.admits i = true := by
  simp [State.admits, h]

theorem State.admits_before_init {s : State} (h : s.initDone = false) (i : Instr) :
    s.admits i = true ↔ i = .init := by
  simp [State.admits, h]

/-- Settles O6: the list of requests is empty, or its head is admitted because INIT was issued. -/
theorem stepRunsTheNextRequest : Obligations.StepRunsTheNextRequest := by
  refine ⟨fun s r rest hi hr => ?_, fun _ hr => step_of_requests_nil hr⟩
  rw [step_of_requests_cons hr, if_pos (State.admits_of_initDone hi r.val)]

/-- Settles O7: before the first INIT, `State.admits` admits INIT alone. -/
theorem beforeInitOnlyInitRuns : Obligations.BeforeInitOnlyInitRuns := by
  intro s r rest hi hr
  rw [step_of_requests_cons hr]
  by_cases hrun : r.val = .init
  · rw [if_pos hrun, if_pos ((State.admits_before_init hi r.val).mpr hrun), hrun]
  · rw [if_neg hrun, if_neg (mt (State.admits_before_init hi r.val).mp hrun)]

/-! ### RAW and its DELIVER requests (R96) -/

@[simp] theorem deliverStep_initDone (s : State) (b : Byte) : (deliverStep s b).initDone = s.initDone := by
  rw [deliverStep, deliverByte_frame, State.begin_initDone]

/-- The DELIVER requests of a byte sequence, run one a step, do what `deliverAll` does and leave the requests behind them. -/
theorem runSteps_deliverRequests (bytes : List Byte) (rest : List Request) {s : State} (h : s.initDone = true) :
    runSteps bytes.length (s.withRequests (deliverRequests bytes ++ rest)) =
      .next ((deliverAll bytes s).withRequests rest) := by
  induction bytes generalizing s with
  | nil => rfl
  | cons b bs ih =>
    have hstep : step (s.withRequests (deliverRequests (b :: bs) ++ rest)) =
        .next ((deliverStep s b).withRequests (deliverRequests bs ++ rest)) := step_deliver h b _
    rw [List.length_cons, runSteps_succ _ hstep, deliverAll_cons]
    exact ih (by rw [deliverStep_initDone, h])

/-- Settles O35: the requests run to what `deliverAll` does, which does not look at the requests behind them. -/
theorem rawRequestsStepToItsMeaning : Obligations.RawRequestsStepToItsMeaning := by
  intro bytes rest s t hi hraw
  have hmeaning : exec (.raw bytes) (s.withRequests rest) = .next ((deliverAll bytes s).withRequests rest) :=
    congrArg Host.Outcome.next (deliverAll_withRequests bytes s rest)
  rw [runSteps_deliverRequests bytes rest hi, ← hmeaning, hraw]

/-! ### A DELIVER that does not dispatch (R182, R187) -/

/-- A DELIVER that dispatches nothing and finds room only stores its byte. -/
theorem deliverStep_of_not_dispatches {s : State} {b : Byte} (hp : s.packetPos.toNat < 128)
    (hd : dispatches b s = false) : deliverStep s b = s.begin.store b := by
  rcases deliverStep_cases s b with ⟨hfull, -, -⟩ | ⟨-, -, e⟩ | ⟨-, hdisp, -⟩
  · omega
  · exact e
  · rw [hd] at hdisp; cases hdisp

/-- The first byte of a bus write is never dispatched (R183). -/
theorem dispatches_eq_false_of_packetPos_zero {s : State} (h : s.packetPos.toNat = 0) (b : Byte) :
    dispatches b s = false := by
  rw [← Bool.not_eq_true, dispatches_iff]
  omega

/-! ### The wedge (R19, R311) -/

theorem State.Wedged.not_dispatches {s : State} (h : s.Wedged) (b : Byte) : dispatches b s = false := by
  obtain ⟨-, hwedge⟩ := h
  rw [← Bool.not_eq_true, dispatches_iff]
  rintro ⟨-, hroom, hmarker, hlen⟩
  rcases hwedge with hother | ⟨hpos, hlength⟩
  · exact hother hmarker
  · rw [if_neg (by omega)] at hlen
    omega

/-- Storing a byte moves the cursor on and touches neither the Word Address nor, from cursor 2 on, the declared length. -/
theorem State.Wedged.store {s : State} (h : s.Wedged) (hp : s.packetPos.toNat < 128) (b : Byte) :
    (s.store b).Wedged := by
  obtain ⟨hpos, hwedge⟩ := h
  have hcursor : (s.store b).packetPos.toNat = s.packetPos.toNat + 1 := State.packetPos_succ hp
  have hmarker : (s.store b).readByte .command 0 = s.readByte .command 0 := by
    rw [State.store_readByte_command, if_neg (by omega)]
  refine ⟨by omega, ?_⟩
  rw [hmarker, hcursor]
  rcases hwedge with hother | ⟨hpos2, hlength⟩
  · exact .inl hother
  · rw [State.store_readByte_command, if_neg (by omega)]
    exact .inr ⟨by omega, by omega⟩

theorem State.Wedged.begin {s : State} (h : s.Wedged) : s.begin.Wedged := by
  simpa only [State.Wedged, State.begin_packetPos, State.readByte_begin] using h

theorem State.Wedged.deliverStep {s : State} (h : s.Wedged) (b : Byte) : (deliverStep s b).Wedged := by
  rcases deliverStep_cases s b with ⟨-, -, e⟩ | ⟨hroom, -, e⟩ | ⟨-, hdisp, -⟩
  · rw [e]; exact h.begin
  · rw [e]; exact h.begin.store hroom b
  · rw [h.not_dispatches b] at hdisp; cases hdisp

/-- In a command frame whose declared length is `n + 1` beyond the cursor, the DELIVER after `n` more bytes dispatches. -/
theorem dispatches_after_replicate (n : Nat) {s : State} (hmarker : s.readByte .command 0 = 3)
    (hpos : 2 ≤ s.packetPos.toNat) (hlen : s.packetPos.toNat + n + 1 = (s.readByte .command 1).toNat)
    (hmax : (s.readByte .command 1).toNat ≤ 128) :
    dispatches 0 (deliverAll (List.replicate n 0) s) = true := by
  induction n generalizing s with
  | zero =>
    rw [List.replicate_zero, deliverAll_nil, dispatches_iff, if_neg (by omega)]
    exact ⟨by omega, by omega, hmarker, hlen⟩
  | succ n ih =>
    have hnot : dispatches 0 s = false := by
      rw [← Bool.not_eq_true, dispatches_iff, if_neg (by omega)]
      omega
    have hcursor : (s.packetPos + 1).toNat = s.packetPos.toNat + 1 := State.packetPos_succ (by omega)
    have hkept : ∀ a < 2, (s.begin.store 0).readByte .command a = s.readByte .command a := fun a ha => by
      rw [State.store_readByte_command, State.begin_packetPos, if_neg (by omega), State.readByte_begin]
    rw [List.replicate_succ, deliverAll_cons, deliverStep_of_not_dispatches (by omega) hnot]
    apply ih
    · rw [hkept 0 (by omega), hmarker]
    · rw [State.store_packetPos, State.begin_packetPos]; omega
    · rw [hkept 1 (by omega), State.store_packetPos, State.begin_packetPos]; omega
    · rw [hkept 1 (by omega)]; exact hmax

/-- Right after the marker the length byte 2 dispatches at once (decision D7). -/
theorem dispatches_two_after_marker {s : State} (hpos : s.packetPos.toNat = 1)
    (hmarker : s.readByte .command 0 = 3) : dispatches 2 s = true := by
  rw [dispatches_iff, if_pos hpos, hpos]
  exact ⟨by omega, by omega, hmarker, rfl⟩

/-- From an idle framer the bytes 03 02 dispatch (decision D7). -/
theorem dispatches_two_from_idle {s : State} (h : s.packetPos.toNat = 0) :
    dispatches 2 (deliverAll [3] s) = true := by
  rw [deliverAll_cons, deliverAll_nil,
    deliverStep_of_not_dispatches (by omega) (dispatches_eq_false_of_packetPos_zero h 3)]
  apply dispatches_two_after_marker
  · rw [State.store_packetPos, State.begin_packetPos, State.packetPos_succ (by omega), h]
  · rw [State.store_readByte_command, State.begin_packetPos, if_pos h.symm]

/-- A framer that is not wedged is idle, has only the marker, or has its declared length still ahead. -/
theorem State.not_wedged_cases {s : State} (h : ¬ s.Wedged) :
    s.packetPos.toNat = 0 ∨
    (s.packetPos.toNat = 1 ∧ s.readByte .command 0 = 3) ∨
    (2 ≤ s.packetPos.toNat ∧ s.readByte .command 0 = 3 ∧
      s.packetPos.toNat < (s.readByte .command 1).toNat ∧ (s.readByte .command 1).toNat ≤ 128) := by
  by_cases hpos : 1 ≤ s.packetPos.toNat
  · have hmarker : s.readByte .command 0 = 3 := by
      by_contra hother
      exact h ⟨hpos, .inl hother⟩
    by_cases hpos2 : 2 ≤ s.packetPos.toNat
    · have hlength : ¬ ((s.readByte .command 1).toNat ≤ s.packetPos.toNat ∨ 128 < (s.readByte .command 1).toNat) :=
        fun hl => h ⟨hpos, .inr ⟨hpos2, hl⟩⟩
      exact .inr (.inr ⟨hpos2, hmarker, by omega, by omega⟩)
    · exact .inr (.inl ⟨by omega, hmarker⟩)
  · exact .inl (by omega)

/-- From every framer that is not wedged some DELIVERs reach a dispatch. -/
theorem State.exists_dispatches_of_not_wedged {s : State} (h : ¬ s.Wedged) :
    ∃ (bytes : List Byte) (b : Byte), dispatches b (deliverAll bytes s) = true := by
  rcases State.not_wedged_cases h with hidle | ⟨hpos, hmarker⟩ | ⟨hpos, hmarker, hahead, hmax⟩
  · exact ⟨[3], 2, dispatches_two_from_idle hidle⟩
  · exact ⟨[], 2, dispatches_two_after_marker hpos hmarker⟩
  · exact ⟨_, 0, dispatches_after_replicate ((s.readByte .command 1).toNat - s.packetPos.toNat - 1) hmarker hpos
      (by omega) hmax⟩

/-- Settles O30: DELIVER keeps the wedge and a wedged framer never dispatches; any other framer has a byte sequence that
completes its frame. -/
theorem wedgedIffNoDeliverDispatches : Obligations.WedgedIffNoDeliverDispatches := by
  intro s
  constructor
  · intro hwedged bytes b
    exact State.Wedged.not_dispatches
      (deliverAll_keeps (P := State.Wedged) (fun _ b h => h.deliverStep b) bytes hwedged) b
  · intro hnever
    by_contra hfree
    obtain ⟨bytes, b, hdisp⟩ := State.exists_dispatches_of_not_wedged hfree
    rw [hnever bytes b] at hdisp
    cases hdisp

end Sys2Proof.Machine
end

section
/-! PROOFS. The state (spec/10_state.md): its values after INIT, the invariant of R38 and that every step keeps it, the bus
side that no service operation touches, the status outputs. -/

namespace Sys2Proof.Machine

/-! ### Reset (R37, R38) -/

/-- Settles O1: each register is written out in `State.reset`, and an empty memory reads as its erased byte. -/
theorem resetHoldsTheValuesOfInit : Obligations.ResetHoldsTheValuesOfInit :=
  ⟨rfl, rfl, rfl, rfl, rfl, fun _ => rfl, fun _ => rfl, fun _ => rfl, fun _ => rfl, fun _ => rfl, rfl, rfl⟩

theorem State.reset_memoriesWf : State.reset.MemoriesWf := by
  intro sp
  have hempty : State.reset.mem sp = [] := by cases sp <;> rfl
  rw [hempty]
  exact ⟨.nil, nofun⟩

/-- An idle framer meets the invariant's clauses about the receive side, whatever the buffer holds. -/
theorem State.OffReceive.inv_of_packetPos_zero {s : State} (h : s.OffReceive) (hidle : s.packetPos.toNat = 0) : s.Inv where
  memories      := h.memories
  packetPos     := by omega
  responsePos   := h.responsePos
  lastError     := h.lastError
  executionTime := h.executionTime
  noRest        := fun hpos => by omega
  notPassed     := fun hpos => by omega
  replyBound    := h.replyBound

/-- Settles O3: the framer is idle, and the other clauses speak of zeros and of empty memories. -/
theorem resetMeetsTheInvariant : Obligations.ResetMeetsTheInvariant :=
  State.OffReceive.inv_of_packetPos_zero (hidle := rfl)
    { memories      := State.reset_memoriesWf
      responsePos   := by decide
      lastError     := by decide
      executionTime := by decide
      replyBound    := fun _ _ => rfl }

/-- The invariant does not ask what the outside holds: the requests, the entropy input, what was given back (R9, R278). -/
theorem State.inv_reset_with (requests : List Request) (entropyIn : List Bytes32) (drawCount : Nat) (response : Response) :
    State.Inv { State.reset with
      requests := requests, entropyIn := entropyIn, drawCount := drawCount, response := response } := by
  refine resetMeetsTheInvariant.congr (fun sp => ?_) resetMeetsTheInvariant.lastError rfl rfl rfl rfl rfl
  have hwf := State.reset_memoriesWf sp
  cases sp <;> exact hwf

theorem State.inv_initDevice (s : State) : (initDevice s).Inv :=
  State.inv_reset_with s.requests s.entropyIn s.drawCount s.response

/-! ### The framer keeps the invariant (R38, R182, R188) -/

/-- Moving the reply cursor inside its bound keeps the invariant. -/
theorem State.Inv.setResponsePos {s : State} (h : s.Inv) {v : BitVec 8} (hv : v.toNat ≤ 128) :
    (s.setResponsePos v).Inv where
  memories      := fun sp => by rw [State.mem_setResponsePos]; exact h.memories sp
  packetPos     := h.packetPos
  responsePos   := hv
  lastError     := h.lastError
  executionTime := h.executionTime
  noRest        := h.noRest
  notPassed     := h.notPassed
  replyBound    := h.replyBound

theorem State.OffReceive.setPacketPos {s : State} (h : s.OffReceive) (v : BitVec 8) : (s.setPacketPos v).OffReceive where
  memories      := fun sp => by rw [State.mem_setPacketPos]; exact h.memories sp
  responsePos   := h.responsePos
  lastError     := h.lastError
  executionTime := h.executionTime
  replyBound    := h.replyBound

/-- Storing a byte keeps what does not speak of the receive side. -/
theorem State.OffReceive.store {s : State} (h : s.OffReceive) (hroom : s.packetPos.toNat < 128) (b : Byte) :
    (s.store b).OffReceive where
  memories      := State.wf_store h.memories hroom b
  responsePos   := h.responsePos
  lastError     := h.lastError
  executionTime := h.executionTime
  replyBound    := h.replyBound

/-- A stored byte that dispatches nothing does not let the cursor pass the declared length: the byte is the length byte and
differs from 2, or the length was not passed before and is not the next cursor (R83, R184). -/
theorem State.Inv.store_notPassed {s : State} (h : s.Inv) (hroom : s.packetPos.toNat < 128) {b : Byte}
    (hnot : dispatches b s = false) (hpos : 2 ≤ (s.store b).packetPos.toNat)
    (hmarker : (s.store b).readByte .command 0 = 3) :
    ((s.store b).readByte .command 1).toNat < 2 ∨
      (s.store b).packetPos.toNat < ((s.store b).readByte .command 1).toNat := by
  have hcursor : (s.store b).packetPos.toNat = s.packetPos.toNat + 1 := State.packetPos_succ hroom
  rw [State.store_readByte_command, if_neg (by omega)] at hmarker
  have hlength : s.packetPos.toNat + 1 ≠ (if s.packetPos.toNat = 1 then b else s.readByte .command 1).toNat :=
    fun hmeets => by
      rw [(dispatches_iff b s).mpr ⟨by omega, hroom, hmarker, hmeets⟩] at hnot
      cases hnot
  rw [State.store_readByte_command, hcursor]
  by_cases hfirst : s.packetPos.toNat = 1
  · rw [if_pos hfirst] at hlength
    rw [if_pos hfirst.symm]
    omega
  · rw [if_neg hfirst] at hlength
    rw [if_neg (Ne.symm hfirst)]
    have hbefore := h.notPassed (by omega) hmarker
    omega

/-- A stored byte that dispatches nothing keeps the invariant: no complete frame rests, as the cursor has not met its length. -/
theorem State.Inv.store {s : State} (h : s.Inv) (hroom : s.packetPos.toNat < 128) {b : Byte}
    (hnot : dispatches b s = false) : (s.store b).Inv := by
  have hoff := h.offReceive.store hroom b
  have hcursor : (s.store b).packetPos.toNat = s.packetPos.toNat + 1 := State.packetPos_succ hroom
  have hpassed := h.store_notPassed hroom hnot
  exact {
    memories      := hoff.memories
    packetPos     := by omega
    responsePos   := hoff.responsePos
    lastError     := hoff.lastError
    executionTime := hoff.executionTime
    noRest        := fun hpos hmarker hmeets => by
      have hnext := hpassed hpos hmarker
      rw [← hmeets] at hnext
      omega
    notPassed     := hpassed
    replyBound    := hoff.replyBound }

/-- DELIVER keeps the invariant: a byte dropped or stored does, and a dispatch leaves the framer idle (R185). -/
theorem State.Inv.deliverStep {s : State} (h : s.Inv) (b : Byte) : (deliverStep s b).Inv := by
  rcases deliverStep_cases s b with ⟨-, -, e⟩ | ⟨hroom, hnot, e⟩ | ⟨hroom, -, e⟩ <;> rw [e]
  · exact h.begin
  · exact h.begin.store hroom hnot
  · exact (((h.begin.offReceive.store hroom b).runCommand _).setPacketPos 0).inv_of_packetPos_zero rfl

theorem State.Inv.deliverAll {s : State} (h : s.Inv) (bytes : List Byte) : (deliverAll bytes s).Inv :=
  deliverAll_keeps (fun _ b hs => hs.deliverStep b) bytes h

/-- TAKE keeps the invariant: the reply cursor moves only below its bound (R188). -/
theorem State.Inv.of_execTake {s t : State} (h : s.Inv) (ht : execTake s = .next t) : t.Inv := by
  unfold execTake at ht
  split at ht <;> cases ht
  · exact h.begin.returns _
  · next hbound =>
    have hmoved : (s.responsePos + 1).toNat ≤ 128 := by
      have hone : (1 : BitVec 8).toNat = 1 := rfl
      rw [bufSize] at hbound
      rw [BitVec.toNat_add, hone]
      omega
    exact (h.begin.setResponsePos hmoved).returns _

/-! ### Every step keeps the invariant (R38) -/

/-- Every instruction keeps the invariant. -/
theorem State.Inv.of_exec {s t : State} (h : s.Inv) {i : Instr} (ht : exec i s = .next t) : t.Inv := by
  cases i with
  | take => exact h.of_execTake ht
  | init => cases ht; exact s.begin.inv_initDevice
  | deliver b => cases ht; exact h.deliverStep b
  | waCommand => cases ht; exact h.deliverStep waCommandByte
  | waOther b => cases ht; exact h.deliverStep b
  | frame => cases ht; exact h.deliverAll _
  | raw bytes => cases ht; exact h.deliverAll bytes
  | random => cases ht; exact h.runCommand .random
  | nonce => cases ht; exact h.runCommand .nonce
  | genkey => cases ht; exact h.runCommand .genkey
  | sign => cases ht; exact h.runCommand .sign
  | verify => cases ht; exact h.runCommand .verify
  | read => cases ht; exact h.runCommand .read
  | write => cases ht; exact h.runCommand .write
  | lock => cases ht; exact h.runCommand .lock
  | info => cases ht; exact h.runCommand .info
  | unknown => cases ht; exact h.runCommand .unknown
  | crc16 | isConfigLocked | isDataAndOtpLocked => cases ht; exact h.begin.returns _
  | readZone zone address length => cases ht; exact (h.begin.readZone zone _ _).returns _
  | writeZone zone address bytes => cases ht; exact (h.begin.writeZone zone _ bytes).returns _
  | lockConfig | lockDataAndOtp => cases ht; exact h.begin.memWrite (sp := .config) (by decide) (by decide)
  | storeKey slot key => cases ht; exact (h.begin.storeKey slot key).returns _
  | generateKey slot => cases ht; exact (h.begin.tookDraw.storeKey slot _).returns _
  | computeCombine slot => cases ht; exact (h.begin.readSlot slot).returns _
  | deriveChild parent => cases ht; exact (h.begin.readSlot parent).returns _
  | setState d => cases ht; exact h.begin.setDeviceState d

/-- Settles O4: a step is idle or runs the instruction of the next request. -/
theorem stepKeepsTheInvariant : Obligations.StepKeepsTheInvariant := by
  intro s t h hstep
  rcases step_next hstep with rfl | ⟨r, rest, -, hexec⟩
  · exact h
  · exact (h.withRequests rest).of_exec hexec

/-- Settles O5, by induction on the steps from INIT. -/
theorem everyReachableStateMeetsTheInvariant : Obligations.EveryReachableStateMeetsTheInvariant := by
  intro s hs
  induction hs with
  | reset requests entropy => exact State.inv_reset_with requests entropy 0 .quiet
  | step s t _ hstep ih => exact stepKeepsTheInvariant s t ih hstep

/-! ### The bus side (R24, R25, R50, R54, R55, R246) -/

/-- Settles O46: one case for each service operation, by what it leaves alone. -/
theorem serviceOperationsLeaveTheBusSide : Obligations.ServiceOperationsLeaveTheBusSide := by
  intro i s t hrequest hinit htake hdeliver ht
  cases i with
  | init => exact absurd rfl hinit
  | take => exact absurd rfl htake
  | deliver b => exact absurd rfl (hdeliver b)
  | crc16 | lockConfig | lockDataAndOtp | isConfigLocked | isDataAndOtpLocked | setState =>
    cases ht; exact ⟨rfl, rfl, rfl, rfl, rfl⟩
  | readZone => cases ht; rw [readZone_frame]; exact ⟨rfl, rfl, rfl, rfl, rfl⟩
  | writeZone => cases ht; rw [writeZone_frame]; exact ⟨rfl, rfl, rfl, rfl, rfl⟩
  | storeKey | generateKey => cases ht; rw [storeKey_frame]; exact ⟨rfl, rfl, rfl, rfl, rfl⟩
  | computeCombine | deriveChild => cases ht; rw [readSlot_frame]; exact ⟨rfl, rfl, rfl, rfl, rfl⟩
  | random | nonce | genkey | sign | verify | read | write | lock | info | unknown | waCommand | waOther | frame | raw =>
    cases hrequest

/-! ### The status outputs (R33) -/

/-- Settles O19: three outputs are registers or their code, and the lock flags compare one byte each (R27). -/
theorem statusOutputsShowTheState : Obligations.StatusOutputsShowTheState := by
  intro s
  refine ⟨?_, rfl, rfl, s.configLocked_eq, s.dataOtpLocked_eq⟩
  show deviceStateCode s.state = _
  cases s.state <;> rfl

end Sys2Proof.Machine
end

section
/-! PROOFS. The memory (spec/20_memory.md): what comes over the bus reaches no zone, and the receive buffer that completes a
frame decodes to the command that runs. -/

namespace Sys2Proof.Machine

/-! ### The bus and the zones (R50, R218, R243) -/

/-- The zones and `state` are in `t` as in `s`. -/
def State.ZonesKept (s t : State) : Prop :=
  t.configZone = s.configZone ∧ t.otpZone = s.otpZone ∧ t.dataZone = s.dataZone ∧ t.state = s.state

theorem State.ZonesKept.refl (s : State) : s.ZonesKept s := ⟨rfl, rfl, rfl, rfl⟩

theorem State.ZonesKept.trans {s t u : State} (hst : s.ZonesKept t) (htu : t.ZonesKept u) : s.ZonesKept u := by
  obtain ⟨hconfig, hotp, hdata, hstate⟩ := hst
  obtain ⟨hconfig', hotp', hdata', hstate'⟩ := htu
  exact ⟨hconfig'.trans hconfig, hotp'.trans hotp, hdata'.trans hdata, hstate'.trans hstate⟩

theorem runCommand_zonesKept (c : Command) (s : State) : s.ZonesKept (runCommand c s) := by
  rw [runCommand_frame]; exact ⟨rfl, rfl, rfl, rfl⟩

theorem deliverStep_zonesKept (s : State) (b : Byte) : s.ZonesKept (deliverStep s b) := by
  rw [deliverStep, deliverByte_frame]; exact ⟨rfl, rfl, rfl, rfl⟩

theorem deliverAll_zonesKept (bytes : List Byte) (s : State) : s.ZonesKept (deliverAll bytes s) :=
  deliverAll_keeps (P := s.ZonesKept) (fun u b hu => hu.trans (deliverStep_zonesKept u b)) bytes (.refl s)

theorem execTake_zonesKept {s t : State} (ht : execTake s = .next t) : s.ZonesKept t := by
  unfold execTake at ht
  split at ht <;> cases ht <;> exact ⟨rfl, rfl, rfl, rfl⟩

/-- An instruction that is no request of the host runs one command or delivers bytes (R80, log 24 to log 26). -/
theorem exec_cases_of_not_isRequest {i : Instr} (h : i.isRequest = false) (s : State) :
    (∃ c, exec i s = .next (runCommand c s)) ∨ (∃ bytes, exec i s = .next (deliverAll bytes s)) := by
  cases i with
  | random => exact .inl ⟨.random, rfl⟩
  | nonce => exact .inl ⟨.nonce, rfl⟩
  | genkey => exact .inl ⟨.genkey, rfl⟩
  | sign => exact .inl ⟨.sign, rfl⟩
  | verify => exact .inl ⟨.verify, rfl⟩
  | read => exact .inl ⟨.read, rfl⟩
  | write => exact .inl ⟨.write, rfl⟩
  | lock => exact .inl ⟨.lock, rfl⟩
  | info => exact .inl ⟨.info, rfl⟩
  | unknown => exact .inl ⟨.unknown, rfl⟩
  | waCommand => exact .inr ⟨[waCommandByte], rfl⟩
  | waOther b => exact .inr ⟨[b], rfl⟩
  | frame => exact .inr ⟨_, rfl⟩
  | raw bytes => exact .inr ⟨bytes, rfl⟩
  | init | deliver | take | crc16 | readZone | writeZone | lockConfig | lockDataAndOtp | isConfigLocked
  | isDataAndOtpLocked | storeKey | generateKey | computeCombine | deriveChild | setState => cases h

/-- Settles O45: what comes over the bus is a command, delivered bytes or TAKE, and each keeps the zones and `state`. -/
theorem theBusReachesNoZone : Obligations.TheBusReachesNoZone := by
  rintro i s t (hbus | rfl | ⟨b, rfl⟩) ht
  · rcases exec_cases_of_not_isRequest hbus s with ⟨c, e⟩ | ⟨bytes, e⟩ <;> rw [e] at ht <;> cases ht
    · exact runCommand_zonesKept c s
    · exact deliverAll_zonesKept bytes s
  · exact execTake_zonesKept ht
  · cases ht
    exact deliverStep_zonesKept s b

/-! ### The bytes of a range (R14) -/

theorem State.memRead_succ (s : State) (sp : Space) (a n : Nat) :
    s.memRead sp a (n + 1) = s.readByte sp a :: s.memRead sp (a + 1) n := by
  simp [State.memRead, List.range_succ_eq_map, Nat.add_assoc, Nat.add_comm 1]

theorem State.take_memRead (s : State) (sp : Space) (a : Nat) {m n : Nat} (h : m ≤ n) :
    (s.memRead sp a n).take m = s.memRead sp a m := by
  rw [State.memRead, ← List.map_take, List.take_range, Nat.min_eq_left h, State.memRead]

/-! ### The frame in the receive buffer (R22, R54, R81) -/

/-- The fields of the frame in the receive buffer, its bytes from index 6 on as many as its declared length says. -/
def State.bufferFrame (t : State) : Frame :=
  ⟨t.declaredLength, t.param1, t.param2, t.memRead .command 6 (t.declaredLength.toNat - 6)⟩

/-- The whole buffer is the marker, the declared length, the opcode, the parameters and what lies from index 6 on (R81). -/
theorem State.frameBytes_eq (t : State) : t.frameBytes =
    t.wordAddress :: t.declaredLength :: t.opcode :: t.param1 :: t.readByte .command 4 :: t.readByte .command 5 ::
      t.memRead .command 6 122 := by
  unfold State.frameBytes bufSize
  iterate 6 rw [State.memRead_succ]
  rfl

/-- A buffer that opens with the marker and declares at most its own size decodes to the command of its opcode, stale or
fresh, with the buffer's fields (R210, R222). -/
theorem State.decode_frameBytes {t : State} (hmarker : t.wordAddress = 3) (hmax : t.declaredLength.toNat ≤ 128) :
    ∃ more, decode t.frameBytes = .ok (commandInstr t.opcode t.bufferFrame, more) := by
  have hroom : t.declaredLength.toNat - 6 ≤ 122 := by omega
  rw [State.frameBytes_eq, hmarker, decode_marker, decodeFrameBody_ok (by rwa [State.memRead_length]),
    State.take_memRead t .command 6 hroom]
  exact ⟨_, rfl⟩

theorem commandInstr_lengthDefect (op : Byte) (f : Frame) : (commandInstr op f).lengthDefect = f.lengthDefect := by
  unfold commandInstr
  cases opcodes.command op <;> rfl

/-- The command of a buffer with a length the framer can complete is well formed (R83). -/
theorem State.wellFormed_bufferFrame {t : State} (h : lengthCompletes t.declaredLength = true) :
    (commandInstr t.opcode t.bufferFrame).WellFormed := by
  have hshape : (commandInstr t.opcode t.bufferFrame).shapeDefect = none :=
    commandInstr_wellShaped t.opcode (t.memRead_length .command 6 _)
  rw [Instr.WellFormed, Instr.defect, hshape, commandInstr_lengthDefect]
  exact if_pos h

/-! ### The DELIVER that completes a frame (R182 to R185) -/

/-- The byte that completes a frame leaves the marker and a completing length in the buffer. -/
theorem State.store_of_dispatches {s : State} {b : Byte} (h : dispatches b s = true) :
    (s.store b).wordAddress = 3 ∧ lengthCompletes (s.store b).declaredLength = true := by
  obtain ⟨hpos, hroom, hmarker, hlength⟩ := (dispatches_iff b s).mp h
  have hkept : (s.store b).wordAddress = s.readByte .command 0 := by
    rw [State.wordAddress, State.store_readByte_command, if_neg (by omega)]
  have hmeets : (s.store b).declaredLength.toNat = s.packetPos.toNat + 1 := by
    simp only [hlength, State.declaredLength, State.store_readByte_command, eq_comm (a := (1 : Nat))]
  refine ⟨hkept.trans hmarker, decide_eq_true ?_⟩
  rw [hmeets, bufSize]
  omega

theorem deliverStep_of_dispatches {s : State} {b : Byte} (h : dispatches b s = true) :
    deliverStep s b = (dispatch (s.begin.store b)).setPacketPos 0 := by
  rcases deliverStep_cases s b with ⟨-, hnot, -⟩ | ⟨-, hnot, -⟩ | ⟨-, -, e⟩
  · rw [h] at hnot; cases hnot
  · rw [h] at hnot; cases hnot
  · exact e

/-- Settles O8: the stored byte leaves a complete frame, whose command by the decoder is the one that the dispatcher runs. -/
theorem stepRunsTheDecodedCommand : Obligations.StepRunsTheDecodedCommand := by
  intro s b rest hinit hrequests hdisp
  have hdisp' : dispatches b (s.withRequests rest).begin = true := hdisp
  obtain ⟨hmarker, hlength⟩ := State.store_of_dispatches hdisp'
  obtain ⟨-, hmax⟩ := of_decide_eq_true hlength
  obtain ⟨more, hdecode⟩ := State.decode_frameBytes hmarker hmax
  refine ⟨_, more, _, hdecode, State.wellFormed_bufferFrame hlength, exec_commandInstr _ _ _, ?_⟩
  calc step s
    _ = exec (.deliver b) (s.withRequests rest) := stepRunsTheNextRequest.1 s (Request.deliver b) rest hinit hrequests
    _ = .next (deliverStep (s.withRequests rest) b) := rfl
    _ = .next ((dispatch ((s.withRequests rest).begin.store b)).setPacketPos 0) := by
      rw [deliverStep_of_dispatches (s := s.withRequests rest) hdisp]

end Sys2Proof.Machine
end

section
/-! PROOFS. The encodings (spec/30_encoding.md): decoder and encoder undo each other, the opcode map, the first byte of a bus
write, and the DELIVERs that FRAME and RAW stand for. -/

namespace Sys2Proof

/-! ### What has an encoding (R80, R81, R88) -/

theorem Instr.wellShaped_unknown_iff {op : Byte} {f : Frame} :
    (Instr.unknown op f).WellShaped ↔ Machine.opcodes.command op = .unknown ∧ f.shapeDefect = none := by
  by_cases hop : Machine.opcodes.command op = .unknown <;> simp [Instr.WellShaped, Instr.shapeDefect, hop]

theorem Instr.wellShaped_waOther_iff {b : Byte} : (Instr.waOther b).WellShaped ↔ b ≠ 3 := by
  by_cases hb : b = 3
  · subst hb; decide
  · exact iff_of_true (if_neg hb) hb

/-- A well-shaped term with an encoding is the command of an opcode with a frame of its declared length, the bare marker, or
another Word Address. -/
theorem encode_cases {i : Instr} {bytes : List Byte} (hshape : i.WellShaped) (henc : encode i = some bytes) :
    (∃ op f, f.tail.length = f.len.toNat - 6 ∧ i = commandInstr op f ∧ bytes = encodeFrame op f) ∨
    (i = .waCommand ∧ bytes = [3]) ∨
    (∃ b, b ≠ 3 ∧ i = .waOther b ∧ bytes = [b]) := by
  cases i with
  | random f | nonce f | genkey f | sign f | verify f | read f | write f | lock f | info f =>
    cases henc
    exact .inl ⟨_, f, Frame.shapeDefect_eq_none.mp hshape, rfl, rfl⟩
  | unknown op f =>
    cases henc
    obtain ⟨hop, hf⟩ := Instr.wellShaped_unknown_iff.mp hshape
    exact .inl ⟨op, f, Frame.shapeDefect_eq_none.mp hf, by rw [commandInstr, hop], rfl⟩
  | waCommand => cases henc; exact .inr (.inl ⟨rfl, rfl⟩)
  | waOther b => cases henc; exact .inr (.inr ⟨b, Instr.wellShaped_waOther_iff.mp hshape, rfl, rfl⟩)
  | init | deliver | take | crc16 | readZone | writeZone | lockConfig | lockDataAndOtp | isConfigLocked
  | isDataAndOtpLocked | storeKey | generateKey | computeCombine | deriveChild | setState | frame | raw => cases henc

/-! ### The decoder on an encoding (R81, R84, R88) -/

/-- The bytes of a frame of its declared length decode to the command of its opcode; what follows them is left over. -/
theorem decode_encodeFrame (op : Byte) {f : Frame} (h : f.tail.length = f.len.toNat - 6) (more : List Byte) :
    decode (encodeFrame op f ++ more) = .ok (commandInstr op f, more) := by
  have hroom : f.len.toNat - 6 ≤ (f.tail ++ more).length := by rw [List.length_append]; omega
  calc decode (encodeFrame op f ++ more)
    _ = decodeFrameBody (f.len :: op :: f.param1 :: lowByte f.param2 :: highByte f.param2 :: (f.tail ++ more)) := rfl
    _ = .ok (commandInstr op f, more) := by
      rw [decodeFrameBody_ok hroom, joinLE_lowByte_highByte, List.take_left' h, List.drop_left' h]

/-- Another Word Address is an instruction by itself, whatever follows it (R88, R186). -/
theorem decode_waOther {b : Byte} (h : b ≠ 3) (more : List Byte) : decode (b :: more) = .ok (.waOther b, more) := by
  cases more with
  | nil => exact congrArg (fun i => Except.ok (i, [])) (if_neg h)
  | cons => exact if_neg h

/-- Settles O11, by the three kinds of instruction that have an encoding. -/
theorem decodeOfEncodeIsTheInstruction : Obligations.DecodeOfEncodeIsTheInstruction := by
  intro i bytes hshape henc
  rcases encode_cases hshape henc with ⟨op, f, hf, rfl, rfl⟩ | ⟨rfl, rfl⟩ | ⟨b, hb, rfl, rfl⟩
  · refine ⟨?_, fun _ => decode_encodeFrame op hf⟩
    simpa using decode_encodeFrame op hf []
  · exact ⟨rfl, fun hne => absurd rfl hne⟩
  · exact ⟨decode_waOther hb [], fun _ => decode_waOther hb⟩

/-! ### What the decoder accepts (R81, R87, R88) -/

/-- What is accepted after the marker: the five fixed fields and as many bytes as the declared length says. -/
theorem decodeFrameBody_inv {body more : List Byte} {i : Instr} (h : decodeFrameBody body = .ok (i, more)) :
    ∃ op f, f.tail.length = f.len.toNat - 6 ∧ i = commandInstr op f ∧ 3 :: body = encodeFrame op f ++ more := by
  match body, h with
  | len :: op :: p1 :: lo :: hi :: tail, h =>
    by_cases hroom : len.toNat - 6 ≤ tail.length
    · rw [decodeFrameBody_ok hroom] at h
      cases h
      refine ⟨op, _, List.length_take_of_le hroom, rfl, ?_⟩
      simp [encodeFrame, Machine.waCommandByte]
    · rw [decodeFrameBody, if_pos (by omega)] at h
      cases h

/-- The decoder accepts the bytes of a frame, the bare marker, or another Word Address, each with what it leaves. -/
theorem decode_inv {bytes more : List Byte} {i : Instr} (h : decode bytes = .ok (i, more)) :
    (∃ op f, f.tail.length = f.len.toNat - 6 ∧ i = commandInstr op f ∧ bytes = encodeFrame op f ++ more) ∨
    (i = .waCommand ∧ bytes = [3] ∧ more = []) ∨
    (∃ b, b ≠ 3 ∧ i = .waOther b ∧ bytes = b :: more) := by
  match bytes, h with
  | b :: rest, h =>
    by_cases hb : b = 3
    · subst hb
      cases rest with
      | nil => cases h; exact .inr (.inl ⟨rfl, rfl, rfl⟩)
      | cons => exact .inl (decodeFrameBody_inv h)
    · rw [decode_waOther hb] at h
      cases h
      exact .inr (.inr ⟨b, hb, rfl, rfl⟩)

/-- Settles O12, by the three kinds of byte strings that the decoder accepts. -/
theorem encodeOfDecodeIsTheBytes : Obligations.EncodeOfDecodeIsTheBytes := by
  intro bytes more i h
  rcases decode_inv h with ⟨op, f, hf, rfl, rfl⟩ | ⟨rfl, rfl, rfl⟩ | ⟨b, hb, rfl, rfl⟩
  · exact ⟨commandInstr_wellShaped op hf, _, encode_commandInstr op f, rfl⟩
  · exact ⟨rfl, _, rfl, rfl⟩
  · exact ⟨Instr.wellShaped_waOther_iff.mpr hb, _, rfl, rfl⟩

/-- Settles O13: each word is closed, and its bytes decode by evaluation. -/
theorem wordsOfTheTableDecode : Obligations.WordsOfTheTableDecode :=
  ⟨rfl, rfl, rfl, rfl, rfl, rfl, rfl, rfl, rfl, rfl, rfl, rfl⟩

/-! ### The opcode map (R86, R87) -/

/-- The map lists its bytes in the order of the commands, and the unknown command comes after the last. -/
theorem OpcodeMap.byteOf_eq_getElem? (m : OpcodeMap) (c : Command) : m.byteOf c = m.bytes[c.ctorIdx]? := by
  cases c <;> rfl

theorem OpcodeMap.mem_bytes_of_byteOf {m : OpcodeMap} {c : Command} {op : Byte} (h : m.byteOf c = some op) :
    op ∈ m.bytes := by
  rw [m.byteOf_eq_getElem?] at h
  exact List.mem_of_getElem? h

/-- In a map of distinct bytes no two commands share a byte. -/
theorem OpcodeMap.Distinct.byteOf_inj {m : OpcodeMap} (h : m.Distinct) {c d : Command} {op : Byte}
    (hc : m.byteOf c = some op) (hd : m.byteOf d = some op) : c = d := by
  rw [m.byteOf_eq_getElem?] at hc hd
  obtain ⟨hlt, -⟩ := List.getElem?_eq_some_iff.mp hc
  have hidx : c.ctorIdx = d.ctorIdx := (List.getElem?_inj hlt h).mp (hc.trans hd.symm)
  rw [← Command.ofNat_ctorIdx c, hidx, Command.ofNat_ctorIdx]

/-- A byte outside the map matches no opcode. -/
theorem OpcodeMap.command_of_not_mem {m : OpcodeMap} {op : Byte} (h : op ∉ m.bytes) : m.command op = .unknown := by
  simp only [OpcodeMap.bytes, List.mem_cons, List.not_mem_nil, or_false, not_or] at h
  simp [OpcodeMap.command, h]

/-- A byte of the map is the byte of the command that it decodes to. -/
theorem OpcodeMap.byteOf_command_of_mem {m : OpcodeMap} {op : Byte} (h : op ∈ m.bytes) :
    m.byteOf (m.command op) = some op := by
  unfold OpcodeMap.command
  split_ifs <;> simp_all [OpcodeMap.byteOf, OpcodeMap.bytes]

/-- Settles O14: a byte of the map is the byte of the command it decodes to, and distinct bytes leave it only that one. -/
theorem opcodeMapDecodesByName : Obligations.OpcodeMapDecodesByName := by
  refine ⟨fun m hm => ⟨fun c op hc => ?_, fun op => OpcodeMap.command_of_not_mem⟩, by decide⟩
  exact hm.byteOf_inj (OpcodeMap.byteOf_command_of_mem (OpcodeMap.mem_bytes_of_byteOf hc)) hc

end Sys2Proof

namespace Sys2Proof.Machine

/-! ### The first byte of a bus write (R88, R183, R186) -/

/-- The Word Address that a byte decodes to does what DELIVER of the byte does. -/
theorem exec_decodeWordAddress (b : Byte) (s : State) : exec (decodeWordAddress b) s = .next (deliverStep s b) := by
  unfold decodeWordAddress
  split
  · next h => rw [h]; rfl
  · rfl

/-- Settles O9: the first byte is never dispatched, so its DELIVER only stores it. -/
theorem firstByteRunsTheWordAddress : Obligations.FirstByteRunsTheWordAddress := by
  intro s b hidle
  have hzero : s.packetPos.toNat = 0 := s.packetPos_eq_zero_iff.mp hidle
  have hstore : deliverStep s b = s.begin.store b :=
    deliverStep_of_not_dispatches (by omega) (dispatches_eq_false_of_packetPos_zero hzero b)
  have hread : ∀ a, (s.begin.store b).readByte .command a = if a = 0 then b else s.readByte .command a := fun a => by
    rw [State.store_readByte_command, State.begin_packetPos, hzero, State.readByte_begin]
  refine ⟨decodeWordAddress b, s.begin.store b, rfl, rfl, ?_, congrArg _ hstore, ?_, ?_, fun a ha => ?_⟩
  · rw [exec_decodeWordAddress, hstore]
  · rw [State.store_eq, State.begin_packetPos, hidle]; rfl
  · rw [hread, if_pos rfl]
  · rw [hread, if_neg ha]

/-! ### FRAME and RAW (R96) -/

theorem exec_raw (bytes : List Byte) (s : State) : exec (.raw bytes) s = .next (deliverAll bytes s) := rfl

/-- FRAME delivers its marker, the declared length `7 + n`, its fields, the payload and the CRC byte. -/
theorem exec_frame (op p1 : Byte) (p2 : Half) (payload : List Byte) (crc : Byte) (s : State) :
    exec (.frame op p1 p2 payload crc) s = .next (deliverAll (0x03 :: BitVec.ofNat 8 (7 + payload.length) :: op :: p1 ::
      lowByte p2 :: highByte p2 :: (payload ++ [crc])) s) := rfl

/-- Settles O34: both deliver their bytes, the head first. -/
theorem rawAndFrameAreTheirDelivers : Obligations.RawAndFrameAreTheirDelivers := by
  refine ⟨fun s => ?_, fun b bytes s => ?_, fun op p1 p2 payload crc s => ?_⟩
  · rw [exec_raw, deliverAll_nil]
  · exact ⟨deliverStep s b, _, rfl, exec_raw bytes _, by rw [exec_raw, deliverAll_cons]⟩
  · exact ⟨_, exec_frame op p1 p2 payload crc s, exec_raw _ s⟩

/-! ### A whole command frame from an idle framer (R182 to R185) -/

/-- `t` is `s` with these bytes received from index 0 on: they stand in the buffer, the cursor is behind the last, and
nothing else moved but what was given back. -/
structure State.Received (s : State) (bytes : List Byte) (t : State) : Prop where
  frame : t = { s with
    packetPos := BitVec.ofNat 8 bytes.length, commandPacket := t.commandPacket, response := t.response }
  held  : ∀ (k : Nat) (b : Byte), bytes[k]? = some b → t.readByte .command k = b
  kept  : ∀ a, bytes.length ≤ a → t.readByte .command a = s.readByte .command a

theorem State.Received.nil {s : State} (h : s.packetPos = 0) : s.Received [] s where
  frame := by rw [List.length_nil, show BitVec.ofNat 8 0 = s.packetPos from h.symm]
  held  := nofun
  kept  := fun _ _ => rfl

theorem State.Received.packetPos_toNat {s t : State} {bytes : List Byte} (h : s.Received bytes t)
    (hroom : bytes.length ≤ 128) : t.packetPos.toNat = bytes.length := by
  rw [h.frame, BitVec.toNat_ofNat]
  omega

/-- One more byte stored is one more byte received. -/
theorem State.Received.store {s t : State} {bytes : List Byte} (h : s.Received bytes t) (hroom : bytes.length < 128)
    (b : Byte) : s.Received (bytes ++ [b]) (t.begin.store b) := by
  have hread : ∀ a, (t.begin.store b).readByte .command a =
      if a = bytes.length then b else t.readByte .command a := fun a => by
    rw [State.store_readByte_command, State.begin_packetPos, h.packetPos_toNat (by omega), State.readByte_begin]
  refine ⟨?_, fun k x hk => ?_, fun a ha => ?_⟩
  · have hcursor : t.packetPos + 1 = BitVec.ofNat 8 (bytes ++ [b]).length := by
      rw [h.frame, List.length_append, List.length_singleton, BitVec.ofNat_add]; rfl
    rw [State.store_eq, State.begin_packetPos, hcursor, h.frame]
    rfl
  · rw [hread]
    split
    · next hlast => simpa [hlast] using hk
    · next hbefore =>
      obtain ⟨hlt, -⟩ := List.getElem?_eq_some_iff.mp hk
      rw [List.length_append, List.length_singleton] at hlt
      exact h.held k x (by rwa [List.getElem?_append_left (by omega)] at hk)
  · rw [List.length_append, List.length_singleton] at ha
    rw [hread, if_neg (by omega), h.kept a (by omega)]

/-- The bytes of one command frame that the framer can complete: the marker first, then the number of the bytes (R81, R83). -/
structure IsWholeFrame (bytes : List Byte) : Prop where
  marker : bytes[0]? = some 3
  length : bytes[1]? = some (BitVec.ofNat 8 bytes.length)
  max    : bytes.length ≤ 128

theorem IsWholeFrame.two_le_length {bytes : List Byte} (h : IsWholeFrame bytes) : 2 ≤ bytes.length :=
  (List.getElem?_eq_some_iff.mp h.length).1

/-- With some bytes of a whole frame received, DELIVER of the next dispatches exactly when it is the last. -/
theorem IsWholeFrame.dispatches_iff_last {bytes : List Byte} (h : IsWholeFrame bytes) {s t : State} {k : Nat} {b : Byte}
    (hk : bytes[k]? = some b) (ht : s.Received (bytes.take k) t) : dispatches b t = true ↔ k + 1 = bytes.length := by
  have htwo := h.two_le_length
  have hmax := h.max
  obtain ⟨hlt, -⟩ := List.getElem?_eq_some_iff.mp hk
  have htake : (bytes.take k).length = k := List.length_take_of_le (by omega)
  have hpos : t.packetPos.toNat = k := by rw [ht.packetPos_toNat (by omega), htake]
  have hheld : ∀ j x, j < k → bytes[j]? = some x → t.readByte .command j = x := fun j x hj hx =>
    ht.held j x (by rw [List.getElem?_take_of_lt hj, hx])
  rw [dispatches_iff, hpos]
  by_cases hfirst : k = 0
  · omega
  · have hmarker : t.readByte .command 0 = 3 := hheld 0 3 (by omega) h.marker
    have hlength : (if k = 1 then b else t.readByte .command 1) = BitVec.ofNat 8 bytes.length := by
      split
      · next hone => rw [hone, h.length] at hk; exact (Option.some.inj hk).symm
      · exact hheld 1 _ (by omega) h.length
    rw [hlength, BitVec.toNat_ofNat, Nat.mod_eq_of_lt (by omega)]
    exact ⟨fun ⟨_, _, _, e⟩ => e, fun e => ⟨by omega, by omega, hmarker, e⟩⟩

/-- From an idle framer the bytes of a whole frame but the last are received, by induction on their number. -/
theorem IsWholeFrame.received_take {bytes : List Byte} (h : IsWholeFrame bytes) {s : State} (hidle : s.packetPos = 0)
    {k : Nat} (hk : k < bytes.length) : s.Received (bytes.take k) (deliverAll (bytes.take k) s) := by
  induction k with
  | zero => exact .nil hidle
  | succ k ih =>
    have hmax := h.max
    have hprev := ih (by omega)
    have hbyte : bytes[k]? = some bytes[k] := List.getElem?_eq_getElem (by omega)
    have htake : (bytes.take k).length = k := List.length_take_of_le (by omega)
    have hnot : dispatches bytes[k] (deliverAll (bytes.take k) s) = false := by
      rw [← Bool.not_eq_true, h.dispatches_iff_last hbyte hprev]
      omega
    have hroom : (deliverAll (bytes.take k) s).packetPos.toNat < 128 := by
      rw [hprev.packetPos_toNat (by omega)]; omega
    rw [List.take_add_one, hbyte, Option.toList_some, deliverAll_append, deliverAll_cons, deliverAll_nil,
      deliverStep_of_not_dispatches hroom hnot]
    exact hprev.store (by omega) _

/-- From an idle framer a whole frame is received, dispatched once, and the cursor returns to 0. -/
theorem IsWholeFrame.deliverAll_eq {bytes : List Byte} (h : IsWholeFrame bytes) {s : State} (hidle : s.packetPos = 0) :
    ∃ u, s.Received bytes u ∧ u.response = .quiet ∧ deliverAll bytes s = (dispatch u).setPacketPos 0 := by
  have htwo := h.two_le_length
  have hmax := h.max
  obtain ⟨n, hn⟩ : ∃ n, bytes.length = n + 1 := ⟨bytes.length - 1, by omega⟩
  have hbyte : bytes[n]? = some bytes[n] := List.getElem?_eq_getElem (by omega)
  have hsplit : bytes = bytes.take n ++ [bytes[n]] := by
    rw [List.take_append_getElem, ← hn, List.take_length]
  have hprev := h.received_take hidle (k := n) (by omega)
  have hdisp := (h.dispatches_iff_last hbyte hprev).mpr hn.symm
  refine ⟨(deliverAll (bytes.take n) s).begin.store bytes[n], ?_, rfl, ?_⟩
  · have hall := hprev.store (by rw [List.length_take]; omega) bytes[n]
    rwa [← hsplit] at hall
  · calc deliverAll bytes s
      _ = deliverAll (bytes.take n ++ [bytes[n]]) s := congrArg (deliverAll · s) hsplit
      _ = deliverStep (deliverAll (bytes.take n) s) bytes[n] := deliverAll_append _ _ _
      _ = _ := deliverStep_of_dispatches hdisp

/-- Settles O33: the bytes of FRAME are a whole frame, and the byte at index 2 is its opcode. -/
theorem frameDispatchesItsCommandOnce : Obligations.FrameDispatchesItsCommandOnce := by
  intro op p1 p2 payload crc s hidle hpayload bytes
  have hlength : bytes.length = 7 + payload.length := by simp [bytes]; omega
  have hwhole : IsWholeFrame bytes := ⟨rfl, by rw [hlength]; rfl, by omega⟩
  obtain ⟨u, hu, hquiet, hall⟩ := hwhole.deliverAll_eq hidle
  have hop : u.opcode = op := hu.held 2 op rfl
  refine ⟨_, u, exec_frame op p1 p2 payload crc s, ?_, ?_, hu.held, hu.kept, fun k b hk => ?_⟩
  · calc deliverAll bytes s
      _ = (dispatch u).setPacketPos 0 := hall
      _ = { runCommand (opcodes.command op) u with packetPos := 0 } := by rw [dispatch, hop]; rfl
  · rw [← hlength, ← hquiet]; exact hu.frame
  · obtain ⟨hlt, -⟩ := List.getElem?_eq_some_iff.mp hk
    rw [hwhole.dispatches_iff_last hk (hwhole.received_take hidle hlt)]
    omega

end Sys2Proof.Machine
end

section
/-! PROOFS. The CRC Engine (spec/40_crc.md): the bit step is linear and one-to-one in the register, and with it the loop. -/

namespace Sys2Proof.Machine

/-! ### The request (R110) -/

/-- Settles O55: starting the request and giving back the value write the response alone. -/
theorem crc16AnswersAndChangesNothing : Obligations.Crc16AnswersAndChangesNothing :=
  fun _ _ => rfl

/-! ### The bit step (R111) -/

/-- What the bit step XORs into the shifted register. -/
def crcFeedback (f : Bool) : Half := if f then crcPoly else 0

theorem crcFeedback_xor (f g : Bool) : crcFeedback (f ^^ g) = crcFeedback f ^^^ crcFeedback g := by
  cases f <;> cases g <;> rfl

theorem crcFeedback_getLsbD_zero (f : Bool) : (crcFeedback f).getLsbD 0 = f := by
  cases f <;> rfl

theorem crcBit_eq (reg : Half) (d : Bool) : crcBit reg d = reg <<< 1 ^^^ crcFeedback (d ^^ reg.msb) := by
  rw [crcBit, Bool.bne_eq_xor]
  cases d ^^ reg.msb
  · exact BitVec.xor_zero.symm
  · rfl

/-- The bit step is linear in the register and the data bit together. -/
theorem crcBit_xor (r r' : Half) (d d' : Bool) : crcBit (r ^^^ r') (d ^^ d') = crcBit r d ^^^ crcBit r' d' := by
  have hfeedback : ((d ^^ d') ^^ (r ^^^ r').msb) = ((d ^^ r.msb) ^^ (d' ^^ r'.msb)) := by
    simp only [BitVec.msb_xor, Bool.xor_assoc, Bool.xor_left_comm]
  rw [crcBit_eq, crcBit_eq, crcBit_eq, hfeedback, crcFeedback_xor, BitVec.shiftLeft_xor_distrib]
  ac_rfl

/-- The polynomial is odd, so the lowest bit after the step shows the feedback bit. -/
theorem crcBit_getLsbD_zero (reg : Half) (d : Bool) : (crcBit reg d).getLsbD 0 = (d ^^ reg.msb) := by
  rw [crcBit_eq, BitVec.getLsbD_xor, crcFeedback_getLsbD_zero]
  simp

/-- A register is its top bit and the rest, which the shift keeps. -/
theorem Half.eq_of_msb_of_shiftLeft {r r' : Half} (hmsb : r.msb = r'.msb) (hshift : r <<< 1 = r' <<< 1) : r = r' := by
  refine BitVec.eq_of_getLsbD_eq fun i hi => ?_
  by_cases htop : i = 15
  · rwa [htop, ← BitVec.msb_eq_getLsbD_last]
  · have hbit := congrArg (·.getLsbD (i + 1)) hshift
    simpa [show i + 1 < 16 by omega, hi] using hbit

/-- The step loses nothing of the register: its lowest bit tells the top bit that was shifted out. -/
theorem crcBit_injective (d : Bool) : Function.Injective (crcBit · d) := by
  intro r r' (h : crcBit r d = crcBit r' d)
  have hfeedback : (d ^^ r.msb) = (d ^^ r'.msb) := by
    rw [← crcBit_getLsbD_zero, h, crcBit_getLsbD_zero]
  rw [crcBit_eq, crcBit_eq, hfeedback, BitVec.xor_left_inj] at h
  exact Half.eq_of_msb_of_shiftLeft (Bool.xor_right_inj.mp hfeedback) h

/-! ### The loop (R112) -/

/-- A loop whose every step is one-to-one in the register is so as a whole. -/
theorem foldl_injective {α β : Type} {f : α → β → α} (hf : ∀ b, Function.Injective (f · b)) (l : List β) :
    Function.Injective (l.foldl f) := by
  induction l with
  | nil => exact Function.injective_id
  | cons b l ih => exact ih.comp (hf b)

theorem crcByte_injective (b : Byte) : Function.Injective (crcByte · b) :=
  foldl_injective (fun k => crcBit_injective (b.getLsbD k)) _

theorem crcFrom_injective (bytes : List Byte) : Function.Injective (crcFrom · bytes) :=
  foldl_injective crcByte_injective bytes

theorem crcByte_xor (r r' : Half) (x y : Byte) : crcByte (r ^^^ r') (x ^^^ y) = crcByte r x ^^^ crcByte r' y := by
  simp only [crcByte, List.foldl_cons, List.foldl_nil, BitVec.getLsbD_xor, crcBit_xor]

theorem crcFrom_xor (a b : List Byte) (hlength : a.length = b.length) (r r' : Half) :
    crcFrom (r ^^^ r') (List.zipWith (· ^^^ ·) a b) = crcFrom r a ^^^ crcFrom r' b := by
  induction a generalizing b r r' with
  | nil =>
    rw [List.eq_nil_of_length_eq_zero hlength.symm]
    rfl
  | cons x a ih =>
    obtain ⟨y, b, rfl⟩ := List.exists_cons_of_length_eq_add_one hlength.symm
    calc crcFrom (crcByte (r ^^^ r') (x ^^^ y)) (List.zipWith (· ^^^ ·) a b)
      _ = crcFrom (crcByte r x ^^^ crcByte r' y) (List.zipWith (· ^^^ ·) a b) := by rw [crcByte_xor]
      _ = crcFrom (crcByte r x) a ^^^ crcFrom (crcByte r' y) b := ih b (Nat.succ.inj hlength) _ _

theorem crcFrom_append (reg : Half) (a b : List Byte) : crcFrom reg (a ++ b) = crcFrom (crcFrom reg a) b :=
  List.foldl_append

/-- Zero bytes leave the zero register at zero. -/
theorem crcFrom_zero_replicate (n : Nat) : crcFrom 0 (List.replicate n 0x00) = 0 := by
  induction n with
  | zero => rfl
  | succ n ih => exact ih

theorem crc16_eq (bytes : List Byte) : crc16 bytes = crcFrom 0 bytes := rfl

theorem crc16_append (a b : List Byte) : crc16 (a ++ b) = crcFrom (crc16 a) b :=
  crcFrom_append 0 a b

/-- Settles O56: each vector by evaluation of the loop. -/
theorem crcVectors : Obligations.CrcVectors := by
  unfold Obligations.CrcVectors
  decide +kernel

/-- Settles O57: the loop over a concatenation is two loops, and zero bytes leave the initial register 0 as it is. -/
theorem crcComposes : Obligations.CrcComposes := by
  refine ⟨fun n m => ?_, crc16_append⟩
  rw [crc16_append, crc16_eq (List.replicate n _), crcFrom_zero_replicate, crc16_eq]

/-- Settles O58: the loop is linear, and the initial register is `0 = 0 ^^^ 0`. -/
theorem crcIsLinear : Obligations.CrcIsLinear :=
  fun a b hlength => crcFrom_xor a b hlength 0 0

/-! ### A single changed bit (R114) -/

/-- A byte with one bit set moves the zero register. -/
theorem crcByte_zero_twoPow_ne_zero : ∀ k : Fin 8, crcByte 0 (BitVec.twoPow 8 k) ≠ 0 := by
  decide

/-- A changed bit of a byte changes the register behind the byte: the two differ by what the bit alone gives. -/
theorem crcByte_flip_ne (reg : Half) (x : Byte) (k : Fin 8) :
    crcByte reg (x ^^^ BitVec.twoPow 8 k) ≠ crcByte reg x := by
  have hflip : crcByte reg (x ^^^ BitVec.twoPow 8 k) = crcByte reg x ^^^ crcByte 0 (BitVec.twoPow 8 k) := by
    rw [← crcByte_xor, show reg ^^^ 0 = reg from BitVec.xor_zero]
  rw [hflip]
  simpa using crcByte_zero_twoPow_ne_zero k

/-- Settles O59: the registers differ behind the changed byte, and the rest of the loop keeps them apart. -/
theorem crcSeesEverySingleBit : Obligations.CrcSeesEverySingleBit := by
  intro a b x k
  rw [crc16_append, crc16_append]
  exact (crcFrom_injective b).ne (crcByte_flip_ne (crc16 a) x k)

end Sys2Proof.Machine
end

section
/-! PROOFS. The zones (spec/41_zone.md): the mapper, the checked read and write, the two lock operations and predicates, and
what can put another byte in the place of a lock byte. -/

namespace Sys2Proof.Machine

/-! ### The mapper (R130 to R133, R143) -/

/-- The length and range checks of a tag that names a memory, the range as R133 has it: the sum at most the size. -/
theorem mapZone_of_zoneSpace {zone : Byte} {sp : Space} (h : zoneSpace zone = some sp) (address length : Nat) :
    mapZone zone address length =
      if 32 < length then .reject .lengthTooLarge
      else if address + length ≤ sp.size then .hit sp address length else .reject .outOfRange := by
  simp only [mapZone, h, maxXfer, gt_iff_lt, ← Nat.not_le (a := address + length), ite_not]

/-- Settles O37: one case for each tag that names a zone, and one for the others. -/
theorem mapperChecksZoneLengthRange : Obligations.MapperChecksZoneLengthRange := by
  intro zone address length
  rcases zoneSpace_cases zone with ⟨rfl, hspace⟩ | ⟨rfl, hspace⟩ | ⟨rfl, hspace⟩ | ⟨htag, hspace⟩
  case inr.inr.inr => simp only [mapZone, hspace, if_pos htag]
  all_goals rw [mapZone_of_zoneSpace hspace]; rfl

/-- The lock flag the mapper shows, tag by tag (R143). -/
theorem State.zoneLocked_eq (s : State) (zone : Byte) :
    s.zoneLocked zone =
      if zone = 0 then some s.configLocked else if zone.toNat ≤ 2 then some s.dataOtpLocked else none := by
  rcases zoneSpace_cases zone with ⟨rfl, -⟩ | ⟨rfl, -⟩ | ⟨rfl, -⟩ | ⟨htag, hspace⟩
  case inr.inr.inr =>
    have hconfig : zone ≠ 0 := by rintro rfl; cases htag
    rw [if_neg hconfig, if_neg (by omega), State.zoneLocked, hspace]
    rfl
  all_goals rfl

/-! ### The two zone requests (R134 to R137) -/

/-- What both zone requests answer where the mapper rejects them: `Error`, the lock flag shown, the code raised. -/
def State.rejects (s : State) (zone : Byte) (e : BlockError) : State := ((s.begin.showLock zone).returns .error).raise e

@[simp] theorem State.readByte_rejects (s : State) (zone : Byte) (e : BlockError) (sp : Space) (a : Nat) :
    (s.rejects zone e).readByte sp a = s.readByte sp a := by simp [State.rejects]

section
variable {zone : Byte} {address : Half} {s : State}

theorem exec_readZone_of_reject {length : Byte} {e : BlockError}
    (h : mapZone zone address.toNat length.toNat = .reject e) :
    exec (.readZone zone address length) s = .next (s.rejects zone e) := by
  simp only [exec, execReadZone, readZone, h]
  rfl

theorem exec_readZone_of_hit {length : Byte} {sp : Space} {a n : Nat}
    (h : mapZone zone address.toNat length.toNat = .hit sp a n) :
    exec (.readZone zone address length) s =
      .next ((s.begin.showLock zone).returns (.bytes (s.begin.memRead sp a n))) := by
  simp only [exec, execReadZone, readZone, h]
  rfl

theorem exec_writeZone_of_reject {bytes : List Byte} {e : BlockError}
    (h : mapZone zone address.toNat bytes.length = .reject e) :
    exec (.writeZone zone address bytes) s = .next (s.rejects zone e) := by
  simp only [exec, execWriteZone, writeZone, h]
  rfl

theorem exec_writeZone_of_hit {bytes : List Byte} {sp : Space} {a n : Nat}
    (h : mapZone zone address.toNat bytes.length = .hit sp a n) :
    exec (.writeZone zone address bytes) s =
      .next (((s.begin.showLock zone).memWrite sp a bytes).returns .ok) := by
  simp only [exec, execWriteZone, writeZone, h]
  rfl

end

/-- Settles O22: a zone request that answers `Error` was rejected by the mapper. -/
theorem failedZoneRequestMutatesNothing : Obligations.FailedZoneRequestMutatesNothing := by
  intro zone address length bytes s t ht herror
  obtain ⟨e, rfl⟩ : ∃ e, t = s.rejects zone e := by
    rcases ht with ht | ht
    · cases hmap : mapZone zone address.toNat length.toNat with
      | reject e => rw [exec_readZone_of_reject hmap] at ht; cases ht; exact ⟨e, rfl⟩
      | hit sp a n => rw [exec_readZone_of_hit hmap] at ht; cases ht; cases herror
    · cases hmap : mapZone zone address.toNat bytes.length with
      | reject e => rw [exec_writeZone_of_reject hmap] at ht; cases ht; exact ⟨e, rfl⟩
      | hit sp a n => rw [exec_writeZone_of_hit hmap] at ht; cases ht; simp at herror
  exact ⟨rfl, s.readByte_rejects zone e⟩

/-- Settles O38: the mapper rejects the request, or the answer is the range it names. -/
theorem readZoneCopiesTheRangeOrFails : Obligations.ReadZoneCopiesTheRangeOrFails := by
  intro zone address length s
  cases hmap : mapZone zone address.toNat length.toNat with
  | reject e => exact ⟨_, exec_readZone_of_reject hmap, rfl, s.zoneLocked_eq zone, rfl, rfl⟩
  | hit sp a n =>
    refine ⟨_, exec_readZone_of_hit hmap, rfl, s.zoneLocked_eq zone, rfl, _, rfl, State.memRead_length .., fun k hk => ?_⟩
    rw [State.memRead_getElem? _ _ _ _ _ hk, State.readByte_begin]

/-- `writeZone` changes `lastError`, what is given back and the three zones at most (R135). -/
theorem exec_writeZone_frame {zone : Byte} {address : Half} {bytes : List Byte} {s t : State}
    (ht : exec (.writeZone zone address bytes) s = .next t) :
    t = { s with lastError := t.lastError, response := t.response,
                 configZone := t.configZone, otpZone := t.otpZone, dataZone := t.dataZone } := by
  cases ht
  rw [writeZone_frame]
  rfl

/-- Settles O39: the mapper rejects the request, or the range it names is written. -/
theorem writeZoneOverwritesTheRangeOrFails : Obligations.WriteZoneOverwritesTheRangeOrFails := by
  intro zone address bytes s
  cases hmap : mapZone zone address.toNat bytes.length with
  | reject e =>
    have hexec := exec_writeZone_of_reject (s := s) hmap
    exact ⟨_, hexec, exec_writeZone_frame hexec, s.zoneLocked_eq zone, rfl, rfl, s.readByte_rejects zone e⟩
  | hit sp a n =>
    obtain ⟨-, rfl, rfl, -, -⟩ := mapZone_hit hmap
    have hexec := exec_writeZone_of_hit (s := s) hmap
    refine ⟨_, hexec, exec_writeZone_frame hexec, ?_, by simp, by simp, fun k b hb => ?_, fun sp' x hout => ?_⟩
    · rw [State.returns_response, State.memWrite_response]
      exact s.zoneLocked_eq zone
    · obtain ⟨hk, rfl⟩ := List.getElem?_eq_some_iff.mp hb
      rw [State.readByte_returns, State.readByte_memWrite_same, if_pos (by omega)]
      simp [hk]
    · rw [State.readByte_returns]
      by_cases hsp : sp' = sp
      · subst hsp
        rw [State.readByte_memWrite_same, if_neg fun hin => hout ⟨rfl, hin⟩]
        simp
      · rw [State.readByte_memWrite_other _ _ _ _ hsp]
        simp

/-- Settles O40: the mapper answers the read as it answered the write, and the range holds the bytes that went into it. -/
theorem writeThenReadRoundTrip : Obligations.WriteThenReadRoundTrip := by
  intro zone address bytes s t ht
  cases hmap : mapZone zone address.toNat bytes.length with
  | reject e =>
    rw [exec_writeZone_of_reject hmap] at ht
    cases ht
    exact ⟨⟨nofun, nofun⟩, nofun⟩
  | hit sp a n =>
    obtain ⟨-, rfl, rfl, hshort, -⟩ := mapZone_hit hmap
    rw [exec_writeZone_of_hit hmap] at ht
    cases ht
    have hlength : (BitVec.ofNat 8 bytes.length).toNat = bytes.length := by rw [BitVec.toNat_ofNat]; omega
    refine ⟨⟨fun _ => ⟨sp, rfl⟩, fun _ => by simp⟩, fun _ => ⟨_, exec_readZone_of_hit (hlength ▸ hmap), ?_⟩⟩
    have hrange : ((s.begin.showLock zone).memWrite sp address.toNat bytes |>.returns .ok |>.begin).memRead sp
        address.toNat bytes.length = bytes := by
      rw [State.memRead_congr (t := (s.begin.showLock zone).memWrite sp address.toNat bytes) (by simp),
        State.memRead_memWrite]
    rw [hlength, hrange]
    rfl

/-! ### The lock operations and predicates (R138 to R141) -/

/-- Reading after `MemWrite` of one byte. -/
theorem State.readByte_memWrite_byte (s : State) (sp : Space) (a : Nat) (v : Byte) (sp' : Space) (b : Nat) :
    (s.memWrite sp a [v]).readByte sp' b = if sp' = sp ∧ b = a then v else s.readByte sp' b := by
  by_cases hsp : sp' = sp
  · subst hsp
    rw [State.readByte_memWrite_same]
    by_cases hb : b = a
    · subst hb; simp
    · rw [if_neg (by simp; omega), if_neg fun h => hb h.2]
  · rw [State.readByte_memWrite_other _ _ _ _ hsp, if_neg fun h => hsp h.1]

/-- What both lock operations do to a memory: one config byte reads 0x00 afterwards (R138, R139). -/
theorem State.readByte_lockWrite (s : State) (off : Nat) (sp : Space) (a : Nat) :
    (s.begin.memWrite .config off [lockedByte]).readByte sp a =
      if sp = .config ∧ a = off then 0x00 else s.readByte sp a := by
  rw [State.readByte_memWrite_byte, State.readByte_begin]; rfl

/-- Locking again changes no byte. -/
theorem State.readByte_lockWrite_twice (s : State) (off : Nat) (sp : Space) (a : Nat) :
    ((s.begin.memWrite .config off [lockedByte]).begin.memWrite .config off [lockedByte]).readByte sp a =
      (s.begin.memWrite .config off [lockedByte]).readByte sp a := by
  simp only [State.readByte_lockWrite]
  split <;> rfl

/-- Settles O41: `lockConfig` writes byte 87 of the config zone. -/
theorem lockConfigZeroesItsByte : Obligations.LockConfigZeroesItsByte := by
  intro s
  have hread := s.readByte_lockWrite cfgLockOff
  refine ⟨_, rfl, rfl, (hread .config 87).trans (if_pos ⟨rfl, rfl⟩), ?_, fun a ha => ?_, _, rfl,
    s.readByte_lockWrite_twice cfgLockOff⟩
  · rw [State.configLocked_eq, hread, if_pos ⟨rfl, rfl⟩]; rfl
  · rw [hread, if_neg fun h => ha h.2]

/-- Settles O42: `lockDataAndOtp` writes byte 86 of the config zone, which is not the config zone's own lock byte. -/
theorem lockDataAndOtpZeroesItsByte : Obligations.LockDataAndOtpZeroesItsByte := by
  intro s
  have hread := s.readByte_lockWrite dataLockOff
  have hlocked : (s.begin.memWrite .config dataLockOff [lockedByte]).dataOtpLocked = true := by
    rw [State.dataOtpLocked_eq, hread, if_pos ⟨rfl, rfl⟩]; rfl
  refine ⟨_, rfl, rfl, (hread .config 86).trans (if_pos ⟨rfl, rfl⟩), hlocked, hlocked, ?_, fun a ha => ?_, _, rfl,
    s.readByte_lockWrite_twice dataLockOff⟩
  · rw [State.configLocked_eq, hread, if_neg (by simp), State.configLocked_eq]
  · rw [hread, if_neg fun h => ha h.2]

/-- Settles O43: each predicate answers its lock flag, which compares one byte (R27). -/
theorem lockPredicatesReadTheirBytes : Obligations.LockPredicatesReadTheirBytes :=
  fun _ => ⟨rfl, rfl⟩

/-! ### What can clear a lock (R142, R144) -/

/-- A `writeZone` that is not on zone 0 over config byte `x` keeps the byte. -/
theorem readByte_config_of_exec_writeZone {zone : Byte} {address : Half} {bytes : List Byte} {s t : State}
    (ht : exec (.writeZone zone address bytes) s = .next t) {x : Nat}
    (hout : zone = 0 → ¬ (address.toNat ≤ x ∧ x < address.toNat + bytes.length)) :
    t.readByte .config x = s.readByte .config x := by
  obtain ⟨u, hu, -, -, hmapped⟩ := writeZoneOverwritesTheRangeOrFails zone address bytes s
  obtain rfl : u = t := by rw [hu] at ht; cases ht; rfl
  cases hmap : mapZone zone address.toNat bytes.length with
  | reject e =>
    rw [hmap] at hmapped
    obtain ⟨-, -, hkept⟩ := hmapped
    exact hkept .config x
  | hit sp a n =>
    rw [hmap] at hmapped
    obtain ⟨-, -, -, hkept⟩ := hmapped
    obtain ⟨hspace, rfl, rfl, -, -⟩ := mapZone_hit hmap
    refine hkept .config x fun ⟨hsp, hin⟩ => hout ?_ hin
    subst hsp
    rcases zoneSpace_cases zone with ⟨hzone, -⟩ | ⟨-, h⟩ | ⟨-, h⟩ | ⟨-, h⟩
    · exact hzone
    all_goals rw [hspace] at h; cases h

/-- Only INIT, `writeZone` and the two lock operations change the config zone. -/
theorem configZone_of_exec {i : Instr} {s t : State} (ht : exec i s = .next t) (hinit : i ≠ .init)
    (hwrite : ∀ zone address bytes, i ≠ .writeZone zone address bytes) (hlock : i ≠ .lockConfig ∧ i ≠ .lockDataAndOtp) :
    t.configZone = s.configZone := by
  cases i with
  | init => exact absurd rfl hinit
  | writeZone zone address bytes => exact absurd rfl (hwrite zone address bytes)
  | lockConfig => exact absurd rfl hlock.1
  | lockDataAndOtp => exact absurd rfl hlock.2
  | crc16 | isConfigLocked | isDataAndOtpLocked | setState => cases ht; rfl
  | readZone => cases ht; rw [readZone_frame]; rfl
  | storeKey | generateKey => cases ht; rw [storeKey_frame]; rfl
  | computeCombine | deriveChild => cases ht; rw [readSlot_frame]; rfl
  | take => exact (theBusReachesNoZone _ s t (.inr (.inl rfl)) ht).1
  | deliver b => exact (theBusReachesNoZone _ s t (.inr (.inr ⟨b, rfl⟩)) ht).1
  | random | nonce | genkey | sign | verify | read | write | lock | info | unknown | waCommand | waOther | frame | raw =>
    exact (theBusReachesNoZone _ s t (.inl rfl) ht).1

/-- Apart from INIT and a `writeZone` on zone 0 over it, all that an instruction can do to a config byte is write 0x00. -/
theorem readByte_config_kept_or_zero {i : Instr} {s t : State} (hinit : i ≠ .init) (ht : exec i s = .next t) {x : Nat}
    (hout : ∀ a bytes, i = .writeZone 0 a bytes → ¬ (a.toNat ≤ x ∧ x < a.toNat + bytes.length)) :
    t.readByte .config x = s.readByte .config x ∨ t.readByte .config x = 0x00 := by
  have hlockWrite (off : Nat) : (s.begin.memWrite .config off [lockedByte]).readByte .config x = s.readByte .config x ∨
      (s.begin.memWrite .config off [lockedByte]).readByte .config x = 0x00 := by
    rw [State.readByte_lockWrite]
    split
    · exact .inr rfl
    · exact .inl rfl
  by_cases hconfig : i = .lockConfig
  · subst hconfig; cases ht; exact hlockWrite cfgLockOff
  by_cases hdata : i = .lockDataAndOtp
  · subst hdata; cases ht; exact hlockWrite dataLockOff
  by_cases hwrite : ∃ zone address bytes, i = .writeZone zone address bytes
  · obtain ⟨zone, address, bytes, rfl⟩ := hwrite
    exact .inl (readByte_config_of_exec_writeZone ht fun hzone => hout address bytes (by rw [hzone]))
  · have hkept := configZone_of_exec ht hinit (fun z a bs h => hwrite ⟨z, a, bs, h⟩) ⟨hconfig, hdata⟩
    exact .inl (State.readByte_congr (sp := .config) hkept x)

/-- Settles O44: a lock byte that reads 0x00 is kept or written with 0x00. -/
theorem locksAreClearedOnlyByInitOrConfigWrite : Obligations.LocksAreClearedOnlyByInitOrConfigWrite := by
  intro i s t hinit ht
  simp only [State.configLocked_eq, State.dataOtpLocked_eq, beq_iff_eq]
  exact ⟨fun hlocked hout => (readByte_config_kept_or_zero hinit ht hout).elim (·.trans hlocked) id,
    fun hlocked hout => (readByte_config_kept_or_zero hinit ht hout).elim (·.trans hlocked) id⟩

end Sys2Proof.Machine
end

section
/-! PROOFS. The key store (spec/42_keystore.md): the two operations that store a key, and the two that give back a slot's
bytes under a mask. -/

namespace Sys2Proof.Machine

/-! ### Storing a key (R161, R162) -/

/-- A byte inside the range of `MemWrite`, by its index in what was written (R14). -/
theorem State.readByte_memWrite_of_getElem? (s : State) (sp : Space) (a : Nat) {v : List Byte} {k : Nat} {b : Byte}
    (hb : v[k]? = some b) : (s.memWrite sp a v).readByte sp (a + k) = b := by
  obtain ⟨hk, rfl⟩ := List.getElem?_eq_some_iff.mp hb
  rw [State.readByte_memWrite_same, if_pos (by omega)]
  simp [hk]

/-- A byte outside the range of `MemWrite` (R14). -/
theorem State.readByte_memWrite_outside (s : State) (sp : Space) {a b : Nat} {v : List Byte}
    (hout : ¬ (a ≤ b ∧ b < a + v.length)) : (s.memWrite sp a v).readByte sp b = s.readByte sp b := by
  rw [State.readByte_memWrite_same, if_neg hout]

/-- The state once a key is stored, or the failure raised, and the outcome answered: what `storeKey` and `generateKey` share. -/
def keyStored (slot : Byte) (key : List Byte) (s : State) : State :=
  (storeKey slot key s).2.returns (okOrError (storeKey slot key s).1)

theorem exec_storeKey (slot : Byte) (key : List Byte) (keyType : Byte) (s : State) :
    exec (.storeKey slot key keyType) s = .next (keyStored slot key s.begin) := rfl

theorem exec_generateKey (slot keyType : Byte) (s : State) :
    exec (.generateKey slot keyType) s = .next (keyStored slot s.nextDraw.toList s.begin.tookDraw) := rfl

theorem keyStored_frame (slot : Byte) (key : List Byte) (s : State) :
    keyStored slot key s = { s with
      lastError := (keyStored slot key s).lastError
      response  := (keyStored slot key s).response
      dataZone  := (keyStored slot key s).dataZone } :=
  congrArg (State.returns · (okOrError (storeKey slot key s).1)) (storeKey_frame slot key s)

/-- What storing a key does to `lastError` and the data zone, and what it answers (R161). -/
theorem keyStored_spec (slot : Byte) (key : List Byte) (s : State) :
    let t := keyStored slot key s
    if 16 ≤ slot.toNat then t.lastError = 8 ∧ t.response.result = .error ∧ t.dataZone = s.dataZone
    else if 32 < key.length then t.lastError = 1 ∧ t.response.result = .error ∧ t.dataZone = s.dataZone
    else t.lastError = s.lastError ∧ t.response.result = .ok ∧
      (∀ k b, key[k]? = some b → t.readByte .data (32 * slot.toNat + k) = b) ∧
      (∀ a, ¬ (32 * slot.toNat ≤ a ∧ a < 32 * slot.toNat + key.length) → t.readByte .data a = s.readByte .data a) := by
  intro t
  rcases storeKey_cases slot key s with ⟨hslot, h⟩ | ⟨hslot, hkey, h⟩ | ⟨hslot, hkey, h⟩
  · have ht : t = (s.raise .invalidSlot).returns .error := by simp only [t, keyStored, h]; rfl
    rw [if_pos hslot, ht]
    exact ⟨rfl, rfl, rfl⟩
  · have ht : t = ((s.showLock 2).raise .lengthTooLarge).returns .error := by simp only [t, keyStored, h]; rfl
    rw [if_neg (by omega), if_pos hkey, ht]
    exact ⟨rfl, rfl, rfl⟩
  · have ht : t = ((s.showLock 2).memWrite .data (32 * slot.toNat) key).returns .ok := by
      simp only [t, keyStored, h]; rfl
    rw [if_neg (by omega), if_neg (by omega), ht]
    exact ⟨rfl, rfl, fun k b hb => State.readByte_memWrite_of_getElem? _ _ _ hb,
      fun a hout => State.readByte_memWrite_outside _ _ hout⟩

/-- Settles O50: the key type reaches nothing. -/
theorem storeKeyWritesItsSlot : Obligations.StoreKeyWritesItsSlot := fun slot key keyType s =>
  ⟨_, exec_storeKey slot key keyType s, keyStored_frame slot key s.begin, keyStored_spec slot key s.begin⟩

/-- Settles O51: a draw has 32 bytes, so the key is never too long. -/
theorem generateKeyStoresADraw : Obligations.GenerateKeyStoresADraw := by
  intro slot keyType s
  refine ⟨_, exec_generateKey slot keyType s, keyStored_frame slot _ s.begin.tookDraw, ?_⟩
  have hstored := keyStored_spec slot s.nextDraw.toList s.begin.tookDraw
  by_cases hslot : 16 ≤ slot.toNat
  · rw [if_pos hslot] at hstored ⊢
    exact hstored
  · rw [if_neg hslot, if_neg (by simp), Vector.length_toList] at hstored
    rw [if_neg hslot]
    obtain ⟨herror, hresult, hkey, hkept⟩ := hstored
    exact ⟨herror, hresult, fun k => hkey k _ (by simp), hkept⟩

/-! ### A slot's bytes under a mask (R163, R164, R167) -/

/-- The state once a slot's bytes, each exclusive or its byte of the mask, or the failure, are answered: what `computeCombine`
and `deriveChild` share. -/
def slotMasked (slot : Byte) (mask : List Byte) (s : State) : State :=
  (readSlot slot s.begin).2.returns
    (bytesOrError ((readSlot slot s.begin).1.map fun key => List.zipWith (· ^^^ ·) key mask))

/-- The mask of `deriveChild`: each index plus 1 (R164). -/
def childMask : List Byte := (List.range 32).map fun i => BitVec.ofNat 8 (i + 1)

theorem exec_computeCombine (slot : Byte) (message : Bytes32) (s : State) :
    exec (.computeCombine slot message) s = .next (slotMasked slot message.toList s) := rfl

theorem exec_deriveChild (parent : Byte) (s : State) :
    exec (.deriveChild parent) s = .next (slotMasked parent childMask s) := rfl

theorem slotMasked_of_slot_invalid {slot : Byte} (hslot : 16 ≤ slot.toNat) (mask : List Byte) (s : State) :
    slotMasked slot mask s = (s.begin.raise .invalidSlot).returns .error := by
  rcases readSlot_cases slot s.begin with ⟨-, h⟩ | ⟨hvalid, -⟩
  · simp only [slotMasked, h]; rfl
  · omega

theorem slotMasked_of_slot_valid {slot : Byte} (hslot : slot.toNat < 16) (mask : List Byte) (s : State) :
    slotMasked slot mask s = (s.begin.showLock 2).returns
      (.bytes (List.zipWith (· ^^^ ·) (s.memRead .data (slotAddress slot) 32) mask)) := by
  rcases readSlot_cases slot s.begin with ⟨hinvalid, -⟩ | ⟨-, h⟩
  · omega
  · simp only [slotMasked, h]; rfl

theorem slotMasked_frame (slot : Byte) (mask : List Byte) (s : State) :
    slotMasked slot mask s = { s with
      lastError := (slotMasked slot mask s).lastError
      response  := (slotMasked slot mask s).response } :=
  congrArg (State.returns · (slotMasked slot mask s).response.result) (readSlot_frame slot s.begin)

/-- What the read of a slot under a mask of 32 bytes `m k` answers, and its code (R163, R164). -/
theorem slotMasked_spec (slot : Byte) {mask : List Byte} (hlength : mask.length = 32) {m : Fin 32 → Byte}
    (hmask : ∀ k : Fin 32, mask[k.val]? = some (m k)) (s : State) :
    let t := slotMasked slot mask s
    if 16 ≤ slot.toNat then t.lastError = 8 ∧ t.response.result = .error
    else t.lastError = s.lastError ∧ ∃ bs, t.response.result = .bytes bs ∧ bs.length = 32 ∧
      ∀ k : Fin 32, bs[k.val]? = some (s.readByte .data (32 * slot.toNat + k) ^^^ m k) := by
  intro t
  by_cases hslot : 16 ≤ slot.toNat
  · have ht : t = _ := slotMasked_of_slot_invalid hslot mask s
    rw [if_pos hslot, ht]
    exact ⟨rfl, rfl⟩
  · have ht : t = _ := slotMasked_of_slot_valid (by omega) mask s
    rw [if_neg hslot, ht]
    refine ⟨rfl, _, rfl, by simp [hlength], fun k => ?_⟩
    rw [List.getElem?_zipWith, State.memRead_getElem? _ _ _ _ _ k.isLt, hmask]
    rfl

/-- Settles O52: the mask is the message. -/
theorem computeCombineXorsKeyAndMessage : Obligations.ComputeCombineXorsKeyAndMessage := fun slot message s =>
  ⟨_, exec_computeCombine slot message s, slotMasked_frame slot _ s,
    slotMasked_spec slot message.length_toList (fun k => by simp) s⟩

/-- Settles O53: the mask is each index plus 1. -/
theorem deriveChildXorsIndexes : Obligations.DeriveChildXorsIndexes := fun parent s =>
  ⟨_, exec_deriveChild parent s, slotMasked_frame parent _ s,
    slotMasked_spec parent (by simp [childMask]) (fun k => by simp [childMask]) s⟩

/-- Exclusive or with one key twice gives the bytes back. -/
theorem zipWith_xor_zipWith_xor {key message : List Byte} (h : key.length = message.length) :
    List.zipWith (· ^^^ ·) key (List.zipWith (· ^^^ ·) key message) = message := by
  refine List.ext_getElem (by simp [h]) fun k hk hk' => ?_
  rw [List.getElem_zipWith, List.getElem_zipWith, ← BitVec.xor_assoc, BitVec.xor_self, BitVec.zero_xor]

/-- Settles O54: the first combining leaves the key, so the second meets the same one. -/
theorem combiningTwiceGivesTheMessageBack : Obligations.CombiningTwiceGivesTheMessageBack := by
  intro slot message combined s t u hslot ht hcombined hu
  rw [exec_computeCombine, slotMasked_of_slot_valid hslot] at ht hu
  cases ht
  cases hu
  have hkey (r : Result) : ((s.begin.showLock 2).returns r).memRead .data (slotAddress slot) 32 =
      s.memRead .data (slotAddress slot) 32 := State.memRead_congr (by simp) _ _
  have hfirst : List.zipWith (· ^^^ ·) (s.memRead .data (slotAddress slot) 32) message.toList = combined.toList :=
    Result.bytes.inj hcombined
  rw [State.returns_response, hkey, ← hfirst, zipWith_xor_zipWith_xor (by simp)]

end Sys2Proof.Machine
end

section
/-! PROOFS. The framer (spec/43_framer.md): what one DELIVER does in each resting state, the full buffer, what TAKE gives, that
the two sides share nothing but RANDOM's reply, and a RANDOM frame read back by TAKEs. -/

namespace Sys2Proof.Machine

/-! ### One DELIVER (R182 to R187) -/

theorem exec_deliver (b : Byte) (s : State) : exec (.deliver b) s = .next (deliverStep s b) := rfl

/-- Settles O10: all of them are DELIVER of their byte by definition. -/
theorem wordAddressesAreDeliveredBytes : Obligations.WordAddressesAreDeliveredBytes :=
  fun s b => ⟨deliverStep s 0x03, deliverStep s b, rfl, rfl, rfl, rfl⟩

/-- With 128 bytes in the buffer the byte is dropped, and no comparison is made on it (decision D10). -/
theorem deliverStep_of_full {s : State} (h : 128 ≤ s.packetPos.toNat) (b : Byte) :
    deliverStep s b = s.begin ∧ dispatches b s = false := by
  rcases deliverStep_cases s b with ⟨-, hnot, e⟩ | ⟨hroom, -, -⟩ | ⟨hroom, -, -⟩
  · exact ⟨e, hnot⟩
  · omega
  · omega

theorem State.readByte_begin_store (s : State) (b : Byte) (a : Nat) :
    (s.begin.store b).readByte .command a = if a = s.packetPos.toNat then b else s.readByte .command a := by
  rw [State.store_readByte_command, State.begin_packetPos, State.readByte_begin]

/-- Settles O24, by what one DELIVER can do: drop the byte, store it, or store it and dispatch. -/
theorem deliverStoresDispatchesOrDrops : Obligations.DeliverStoresDispatchesOrDrops := by
  intro b s
  refine ⟨deliverStep s b, exec_deliver b s, ?_⟩
  have hread := s.readByte_begin_store b
  rcases deliverStep_cases s b with ⟨hfull, hnot, e⟩ | ⟨hroom, hnot, e⟩ | ⟨-, hdisp, e⟩
  · rw [e, hnot, if_neg Bool.false_ne_true, if_neg (by omega)]
    exact ⟨rfl, fun a _ => s.readByte_begin .command a, rfl, rfl⟩
  · rw [e, hnot, if_neg Bool.false_ne_true, if_pos hroom]
    exact ⟨rfl, fun a ha => by rw [hread, if_neg ha], by rw [hread, if_pos rfl], State.packetPos_succ hroom⟩
  · rw [e, if_pos hdisp, hread, if_pos rfl]
    exact ⟨rfl, rfl⟩

/-! ### The resting states (R181, R191) -/

theorem State.framerState_of_packetPos_pos {s : State} (h : 1 ≤ s.packetPos.toNat) :
    s.framerState = if s.readByte .command 0 = 3 then .accumulatingFrame else .accumulatingNonCommand :=
  if_neg (by rw [s.packetPos_eq_zero_iff]; omega)

/-- The first byte, which is the Word Address, is stored and not dispatched (R183, R186). -/
theorem deliverStep_of_awaiting {s : State} (h : s.packetPos.toNat = 0) (b : Byte) :
    (deliverStep s b).framerState = (if b = 3 then .accumulatingFrame else .accumulatingNonCommand) ∧
      (deliverStep s b).packetPos = 1 ∧ dispatches b s = false := by
  have hnot := dispatches_eq_false_of_packetPos_zero h b
  have hcursor : (s.begin.store b).packetPos = 1 := by
    rw [State.store_packetPos, State.begin_packetPos, s.packetPos_eq_zero_iff.mpr h]; rfl
  rw [deliverStep_of_not_dispatches (by omega) hnot, State.framerState_of_packetPos_pos (by rw [hcursor]; decide),
    State.readByte_begin_store, if_pos h.symm]
  exact ⟨rfl, hcursor, hnot⟩

/-- A frame's last byte leaves the framer idle (R185). -/
theorem framerState_of_dispatches {s : State} {b : Byte} (h : dispatches b s = true) :
    (deliverStep s b).framerState = .awaitingWordAddress := by
  rw [deliverStep_of_dispatches h]
  exact if_pos rfl

/-- A further byte that dispatches nothing, with room for it, leaves the framer accumulating what it was. -/
theorem deliverStep_of_extends {s : State} {b : Byte} (hpos : 1 ≤ s.packetPos.toNat) (hroom : s.packetPos.toNat < 128)
    (hnot : dispatches b s = false) :
    (deliverStep s b).framerState = s.framerState ∧ (deliverStep s b).packetPos.toNat = s.packetPos.toNat + 1 := by
  have hcursor : (s.begin.store b).packetPos.toNat = s.packetPos.toNat + 1 := State.packetPos_succ hroom
  rw [deliverStep_of_not_dispatches hroom hnot, State.framerState_of_packetPos_pos hpos,
    State.framerState_of_packetPos_pos (by omega), State.readByte_begin_store,
    if_neg (show 0 ≠ s.packetPos.toNat by omega)]
  exact ⟨rfl, hcursor⟩

/-- In a command frame a further byte dispatches exactly when the advanced cursor meets the declared length, which from
cursor 1 is the byte itself (R184, decisions D5, D7). -/
theorem dispatches_iff_of_accumulatingFrame {s : State} (h : s.framerState = .accumulatingFrame)
    (hroom : s.packetPos.toNat < 128) (b : Byte) : dispatches b s = true ↔
      s.packetPos.toNat + 1 = (if s.packetPos.toNat = 1 then b else s.declaredLength).toNat := by
  obtain ⟨hpos, hmarker⟩ := s.framerState_iff.2.1.mp h
  rw [dispatches_iff]
  exact ⟨fun ⟨_, _, _, hmeets⟩ => hmeets, fun hmeets => ⟨hpos, hroom, hmarker, hmeets⟩⟩

theorem not_dispatches_of_accumulatingNonCommand {s : State} (h : s.framerState = .accumulatingNonCommand) (b : Byte) :
    dispatches b s = false := by
  obtain ⟨-, hother⟩ := s.framerState_iff.2.2.mp h
  rw [← Bool.not_eq_true, dispatches_iff]
  exact fun ⟨_, _, hmarker, _⟩ => hother hmarker

/-- A further byte of a command frame completes it when the advanced cursor meets the declared length, and else extends it. -/
theorem deliverStep_of_accumulatingFrame {s : State} (h : s.framerState = .accumulatingFrame)
    (hroom : s.packetPos.toNat < 128) (b : Byte) :
    if s.packetPos.toNat + 1 = (if s.packetPos.toNat = 1 then b else s.declaredLength).toNat then
      (deliverStep s b).framerState = .awaitingWordAddress ∧ dispatches b s = true
    else (deliverStep s b).framerState = .accumulatingFrame ∧
      (deliverStep s b).packetPos.toNat = s.packetPos.toNat + 1 ∧ dispatches b s = false := by
  obtain ⟨hpos, -⟩ := s.framerState_iff.2.1.mp h
  have hmeets := dispatches_iff_of_accumulatingFrame h hroom b
  cases hdisp : dispatches b s with
  | true => rw [if_pos (hmeets.mp hdisp)]; exact ⟨framerState_of_dispatches hdisp, rfl⟩
  | false =>
    obtain ⟨hstate, hcursor⟩ := deliverStep_of_extends hpos hroom hdisp
    rw [if_neg fun e => by rw [hmeets.mpr e] at hdisp; cases hdisp]
    exact ⟨hstate.trans h, hcursor, rfl⟩

/-- Settles O25: one case for each row; the length byte of a frame may complete it, any later byte meets the stored length. -/
theorem framerTransitionTable : Obligations.FramerTransitionTable := by
  intro b s
  refine ⟨deliverStep s b, initDevice s.begin, exec_deliver b s, rfl, fun hidle => ?_, fun hframe hone => ?_,
    fun hframe htwo hroom => ?_, fun _ hfull => ?_, fun hother hroom => ?_, fun _ hfull => ?_, rfl⟩
  · exact deliverStep_of_awaiting (s.framerState_iff.1.mp hidle) b
  · have hpos : s.packetPos.toNat = 1 := by rw [hone]; rfl
    have hlength : 1 + 1 = b.toNat ↔ b = 2 := by rw [← BitVec.toNat_inj, eq_comm]; rfl
    have hcursor : (deliverStep s b).packetPos.toNat = 1 + 1 ↔ (deliverStep s b).packetPos = 2 := by
      rw [← BitVec.toNat_inj]; rfl
    have hrow := deliverStep_of_accumulatingFrame hframe (by omega) b
    rwa [hpos, if_pos rfl, if_congr hlength rfl rfl, hcursor] at hrow
  · have hrow := deliverStep_of_accumulatingFrame hframe (by omega) b
    rwa [if_neg (show s.packetPos.toNat ≠ 1 by omega)] at hrow
  · exact (deliverStep_of_full (by omega) b).1
  · obtain ⟨hpos, -⟩ := s.framerState_iff.2.2.mp hother
    have hnot := not_dispatches_of_accumulatingNonCommand hother b
    obtain ⟨hstate, hcursor⟩ := deliverStep_of_extends hpos (by omega) hnot
    exact ⟨hstate.trans hother, hcursor, hnot⟩
  · exact (deliverStep_of_full (by omega) b).1

/-! ### The receive side (R25, R187, R223) -/

/-- The receive cursor and the receive buffer are in `t` as in `s`. -/
def State.ReceiveKept (s t : State) : Prop :=
  t.packetPos = s.packetPos ∧ t.commandPacket = s.commandPacket

theorem runCommand_receiveKept (c : Command) (s : State) : s.ReceiveKept (runCommand c s) := by
  rw [runCommand_frame]; exact ⟨rfl, rfl⟩

theorem execTake_receiveKept {s t : State} (ht : execTake s = .next t) : s.ReceiveKept t := by
  unfold execTake at ht
  split at ht <;> cases ht <;> exact ⟨rfl, rfl⟩

/-- Apart from INIT, an instruction leaves the receive side alone or delivers bytes. -/
theorem exec_receiveKept_or_delivers {i : Instr} {s t : State} (hinit : i ≠ .init) (ht : exec i s = .next t) :
    s.ReceiveKept t ∨ ∃ bytes, t = deliverAll bytes s := by
  cases hrequest : i.isRequest with
  | false =>
    rcases exec_cases_of_not_isRequest hrequest s with ⟨c, e⟩ | ⟨bytes, e⟩ <;> rw [e] at ht <;> cases ht
    · exact .inl (runCommand_receiveKept c s)
    · exact .inr ⟨bytes, rfl⟩
  | true =>
    by_cases htake : i = .take
    · subst htake; exact .inl (execTake_receiveKept ht)
    by_cases hdeliver : ∃ b, i = .deliver b
    · obtain ⟨b, rfl⟩ := hdeliver; cases ht; exact .inr ⟨[b], rfl⟩
    · obtain ⟨hbuffer, -, hcursor, -, -⟩ :=
        serviceOperationsLeaveTheBusSide i s t hrequest hinit htake (fun b h => hdeliver ⟨b, h⟩) ht
      exact .inl ⟨hcursor, hbuffer⟩

/-- No instruction but INIT leaves the full buffer (decision D8). -/
theorem packetPos_of_exec_of_full {i : Instr} {s t : State} (hfull : s.packetPos = 128) (hinit : i ≠ .init)
    (ht : exec i s = .next t) : t.packetPos = 128 := by
  rcases exec_receiveKept_or_delivers hinit ht with ⟨hcursor, -⟩ | ⟨bytes, rfl⟩
  · exact hcursor.trans hfull
  · refine deliverAll_keeps (P := fun u => u.packetPos = 128) (fun u b hu => ?_) bytes hfull
    rw [(deliverStep_of_full (by rw [hu]; decide) b).1]
    exact hu

theorem State.readByte_command_dispatch (s : State) (a : Nat) :
    (dispatch s).readByte .command a = s.readByte .command a :=
  State.readByte_congr (sp := .command) (runCommand_receiveKept _ s).2 a

/-- In a legal state with a full buffer the frame is no command, or its declared length is one that never completes (R83). -/
theorem State.Inv.full_cases {s : State} (h : s.Inv) (hfull : s.packetPos = 128) :
    s.readByte .command 0 ≠ 3 ∨ s.readByte .command 1 = 0 ∨ s.readByte .command 1 = 1 ∨
      128 < (s.readByte .command 1).toNat := by
  have hpos : s.packetPos.toNat = 128 := by rw [hfull]; rfl
  by_cases hmarker : s.readByte .command 0 = 3
  · have hpassed := h.notPassed (by omega) hmarker
    have hzero : s.readByte .command 1 = 0 ↔ (s.readByte .command 1).toNat = 0 := by rw [← BitVec.toNat_inj]; rfl
    have hone : s.readByte .command 1 = 1 ↔ (s.readByte .command 1).toNat = 1 := by rw [← BitVec.toNat_inj]; rfl
    rw [hzero, hone]
    omega
  · exact .inl hmarker

/-- Settles O26: the 128th byte meets L = 128, and a legal state is full only with a length that the cursor did not meet. -/
theorem fullBufferDropsEveryByte : Obligations.FullBufferDropsEveryByte := by
  refine ⟨fun b s hfull => ?_, fun b s hlast hmarker hlength => ?_, fun i s t hs _ ht hfull => ?_,
    fun i s t hfull hinit ht => packetPos_of_exec_of_full hfull hinit ht⟩
  · rw [exec_deliver, (deliverStep_of_full (by rw [hfull]; decide) b).1]
    rfl
  · have hpos : s.packetPos.toNat = 127 := by rw [hlast]; rfl
    have hdisp : dispatches b s = true := by
      rw [dispatches_iff, hpos, if_neg (by omega), hlength]
      exact ⟨by omega, by omega, hmarker, rfl⟩
    refine ⟨hdisp, deliverStep s b, exec_deliver b s, ?_⟩
    rw [deliverStep_of_dispatches hdisp, State.readByte_setPacketPos, State.readByte_command_dispatch,
      State.readByte_begin_store, if_pos hpos.symm]
    exact ⟨rfl, rfl⟩
  · exact (hs.of_exec ht).full_cases hfull

/-! ### TAKE (R188) -/

/-- The byte that TAKE gives once `k` others were taken: the one so far behind the reply cursor, and 0 from the bound on. -/
def State.replyAhead (s : State) (k : Nat) : Byte :=
  if s.responsePos.toNat + k < 128 then s.readByte .response (s.responsePos.toNat + k) else 0x00

theorem State.replyAhead_of_bound {s : State} {k : Nat} (h : 128 ≤ s.responsePos.toNat + k) : s.replyAhead k = 0x00 :=
  if_neg (by omega)

/-- Where TAKE leaves the reply cursor. -/
def State.nextResponsePos (s : State) : BitVec 8 :=
  if 128 ≤ s.responsePos.toNat then s.responsePos else s.responsePos + 1

/-- One TAKE request. -/
def takeStep (s : State) : State :=
  { s with responsePos := s.nextResponsePos, response := ⟨.byte (s.replyAhead 0), none⟩ }

theorem takeStep_of_bound {s : State} (h : 128 ≤ s.responsePos.toNat) :
    takeStep s = { s with response := ⟨.byte 0x00, none⟩ } := by
  rw [takeStep, State.nextResponsePos, if_pos h, State.replyAhead_of_bound (by omega)]

theorem takeStep_of_lt {s : State} (h : s.responsePos.toNat < 128) :
    takeStep s = { s with responsePos := s.responsePos + 1,
                          response := ⟨.byte (s.readByte .response s.responsePos.toNat), none⟩ } := by
  rw [takeStep, State.nextResponsePos, if_neg (by omega), State.replyAhead, if_pos (by omega)]
  rfl

theorem exec_take (s : State) : exec .take s = .next (takeStep s) := by
  change execTake s = _
  by_cases h : 128 ≤ s.responsePos.toNat
  · rw [takeStep_of_bound h]; exact if_pos h
  · rw [takeStep_of_lt (by omega)]; exact if_neg h

/-- Settles O27, on each side of the bound. -/
theorem takeGivesTheNextReplyByte : Obligations.TakeGivesTheNextReplyByte := by
  intro s
  rw [exec_take]
  split
  · next h => rw [takeStep_of_bound h]
  · next h => rw [takeStep_of_lt (by omega)]

/-! ### TAKE and DELIVER (R189) -/

/-- This DELIVER dispatches RANDOM, the one command that writes the reply (R212, decision D12). -/
def DispatchesRandom (b : Byte) (s : State) : Prop :=
  dispatches b s = true ∧ opcodes.command (s.begin.store b).opcode = .random

/-- RANDOM does not look at the reply cursor, which it moves to 0. -/
theorem dispatch_setResponsePos_of_random {s : State} (h : opcodes.command s.opcode = .random) (v : BitVec 8) :
    dispatch (s.setResponsePos v) = dispatch s := by
  change runCommand (opcodes.command s.opcode) (s.setResponsePos v) = runCommand (opcodes.command s.opcode) s
  rw [h]
  rfl

/-- No other command looks at the reply cursor, nor moves it. -/
theorem dispatch_setResponsePos_of_ne_random {s : State} (h : opcodes.command s.opcode ≠ .random) (v : BitVec 8) :
    dispatch (s.setResponsePos v) = (dispatch s).setResponsePos v := by
  change runCommand (opcodes.command s.opcode) (s.setResponsePos v) = _
  rw [dispatch, runCommand_other h, runCommand_other h]
  rfl

/-- TAKE leaves all that decides whether a byte dispatches. -/
theorem dispatches_takeStep (b : Byte) (s : State) : dispatches b (takeStep s) = dispatches b s := rfl

/-- RANDOM's reply takes the place of what TAKE left. -/
theorem deliverStep_takeStep_of_random {s : State} {b : Byte} (h : DispatchesRandom b s) :
    deliverStep (takeStep s) b = deliverStep s b := by
  obtain ⟨hdisp, hrandom⟩ := h
  rw [deliverStep_of_dispatches hdisp, deliverStep_of_dispatches ((dispatches_takeStep b s).trans hdisp)]
  exact congrArg (State.setPacketPos · 0) (dispatch_setResponsePos_of_random hrandom s.nextResponsePos)

/-- Any other DELIVER leaves the reply cursor where TAKE left it. -/
theorem deliverStep_takeStep_of_not_random {s : State} {b : Byte} (h : ¬ DispatchesRandom b s) :
    deliverStep (takeStep s) b = (deliverStep s b).setResponsePos s.nextResponsePos := by
  rcases deliverStep_cases s b with ⟨hfull, -, e⟩ | ⟨hroom, hnot, e⟩ | ⟨-, hdisp, e⟩ <;> rw [e]
  · exact (deliverStep_of_full (s := takeStep s) hfull b).1
  · exact deliverStep_of_not_dispatches (s := takeStep s) hroom ((dispatches_takeStep b s).trans hnot)
  · rw [deliverStep_of_dispatches ((dispatches_takeStep b s).trans hdisp)]
    exact congrArg (State.setPacketPos · 0)
      (dispatch_setResponsePos_of_ne_random (fun hrandom => h ⟨hdisp, hrandom⟩) s.nextResponsePos)

/-- A DELIVER that does not dispatch RANDOM keeps the transmit side. -/
theorem deliverStep_replyKept_of_not_random {s : State} {b : Byte} (h : ¬ DispatchesRandom b s) :
    (deliverStep s b).responsePos = s.responsePos ∧ (deliverStep s b).responsePacket = s.responsePacket := by
  rcases deliverStep_cases s b with ⟨-, -, e⟩ | ⟨-, -, e⟩ | ⟨-, hdisp, e⟩ <;> rw [e]
  · exact ⟨rfl, rfl⟩
  · exact ⟨rfl, rfl⟩
  · rw [dispatch, runCommand_other fun hrandom => h ⟨hdisp, hrandom⟩]
    exact ⟨rfl, rfl⟩

/-- TAKE looks at the transmit side alone. -/
theorem takeStep_congr {s t : State} (hcursor : t.responsePos = s.responsePos)
    (hbuffer : t.responsePacket = s.responsePacket) :
    takeStep t = { t with responsePos := s.nextResponsePos, response := (takeStep s).response } := by
  have hread : ∀ a, t.readByte .response a = s.readByte .response a :=
    fun a => State.readByte_congr (sp := .response) hbuffer a
  simp only [takeStep, State.nextResponsePos, State.replyAhead, hcursor, hread]

/-- Settles O28: RANDOM overwrites what TAKE moved; any other DELIVER keeps all that TAKE looks at. -/
theorem takeAndDeliverCommute : Obligations.TakeAndDeliverCommute := by
  intro b s afterTake afterDeliver htake hdeliver
  rw [exec_take] at htake
  cases htake
  cases hdeliver
  refine ⟨fun hrandom => ?_, fun hother => ?_⟩
  · rw [exec_deliver, deliverStep_takeStep_of_random hrandom]
  · obtain ⟨hcursor, hbuffer⟩ := deliverStep_replyKept_of_not_random hother
    refine ⟨_, _, exec_deliver b _, exec_take _, ?_⟩
    rw [deliverStep_takeStep_of_not_random hother, takeStep_congr hcursor hbuffer]
    exact ⟨rfl, rfl⟩

/-! ### A RANDOM frame and its reply (R185, R188, R194, R212) -/

/-- A TAKE at the head of the requests, once INIT was issued, is run. -/
theorem step_take {s : State} (h : s.initDone = true) (rest : List Request) :
    step (s.withRequests (Request.take :: rest)) = .next ((takeStep s).withRequests rest) := by
  rw [stepRunsTheNextRequest.1 (s.withRequests (Request.take :: rest)) Request.take rest h rfl]
  exact exec_take (s.withRequests rest)

theorem takeStep_response (s : State) : (takeStep s).response.result = .byte (s.replyAhead 0) := rfl

/-- One TAKE brings every byte of the reply one nearer. -/
theorem replyAhead_takeStep (s : State) (k : Nat) : (takeStep s).replyAhead k = s.replyAhead (k + 1) := by
  by_cases h : 128 ≤ s.responsePos.toNat
  · rw [takeStep_of_bound h, State.replyAhead_of_bound (s := s) (by omega)]
    exact State.replyAhead_of_bound (show 128 ≤ s.responsePos.toNat + k by omega)
  · have hcursor : (s.responsePos + 1).toNat = s.responsePos.toNat + 1 := by
      rw [BitVec.toNat_add, show (1 : BitVec 8).toNat = 1 from rfl]; omega
    have hahead : s.responsePos.toNat + 1 + k = s.responsePos.toNat + (k + 1) := by omega
    rw [takeStep_of_lt (by omega)]
    simp only [State.replyAhead, hcursor, hahead]
    rfl

/-- The last of `k + 1` TAKE requests gives the byte `k` ahead, by induction on the TAKEs before it. -/
theorem runSteps_takes (k : Nat) (rest : List Request) {s : State} (h : s.initDone = true) :
    ∃ t, runSteps (k + 1) (s.withRequests (List.replicate (k + 1) Request.take ++ rest)) = .next t ∧
      t.response.result = .byte (s.replyAhead k) ∧ t.requests = rest := by
  induction k generalizing s with
  | zero => exact ⟨(takeStep s).withRequests rest, runSteps_succ 0 (step_take h rest), takeStep_response s, rfl⟩
  | succ k ih =>
    have hstep : step (s.withRequests (List.replicate (k + 2) Request.take ++ rest)) =
        .next ((takeStep s).withRequests (List.replicate (k + 1) Request.take ++ rest)) := step_take h _
    rw [runSteps_succ _ hstep, ← replyAhead_takeStep]
    exact ih h

/-- RANDOM's reply: the status byte and the 32 drawn bytes, in front of what lay there (R212). -/
theorem readByte_response_doRandom (s : State) (a : Nat) : (doRandom s).readByte .response a =
    if a < 33 then (0x00 :: s.nextDraw.toList).getD a 0x00 else s.readByte .response a := by
  have hlength : (randomStatus :: s.nextDraw.toList).length = 33 := by simp
  rw [doRandom, State.readByte_recordLatency, State.readByte_setResponsePos, State.readByte_memWrite_same, hlength,
    State.readByte_tookDraw]
  simp only [Nat.zero_le, true_and, Nat.zero_add, Nat.sub_zero]
  rfl

/-- Where no byte lies beyond the reply (R55), TAKE after TAKE gives RANDOM's reply and then zeros. -/
theorem replyAhead_doRandom {s : State} (hbound : ∀ a, 33 ≤ a → s.readByte .response a = 0x00) (k : Nat) :
    (doRandom s).replyAhead k = (0x00 :: s.nextDraw.toList).getD k 0x00 := by
  have hcursor : (doRandom s).responsePos.toNat + k = k := Nat.zero_add k
  have hbeyond : 33 ≤ k → (0x00 :: s.nextDraw.toList).getD k 0x00 = 0x00 := fun h => by
    rw [List.getD_eq_default]; simpa using h
  rw [State.replyAhead, hcursor, readByte_response_doRandom]
  by_cases hreply : k < 33
  · rw [if_pos (by omega), if_pos hreply]
  · rw [if_neg hreply, hbound k (by omega), hbeyond (by omega), ite_self]

/-- From an idle framer a RANDOM frame runs RANDOM on a state that holds the draw and the reply buffer of the first. -/
theorem deliverAll_randomFrame (p1 : Byte) (p2 : Half) {payload : List Byte} (crc : Byte) {s : State}
    (hidle : s.packetPos = 0) (hpayload : payload.length ≤ 121) :
    ∃ u, deliverAll (frameExpansion opcodes.random p1 p2 payload crc) s = (doRandom u).setPacketPos 0 ∧
      u.initDone = s.initDone ∧ u.responsePacket = s.responsePacket ∧ u.nextDraw = s.nextDraw := by
  obtain ⟨t, u, hexec, ht, hu, -⟩ := frameDispatchesItsCommandOnce opcodes.random p1 p2 payload crc s hidle hpayload
  rw [exec_frame] at hexec
  refine ⟨u, (Host.Outcome.next.inj hexec).trans ht, ?_⟩
  rw [hu]
  exact ⟨rfl, rfl, rfl⟩

theorem frameExpansion_length (op p1 : Byte) (p2 : Half) (payload : List Byte) (crc : Byte) :
    (frameExpansion op p1 p2 payload crc).length = 7 + payload.length := by
  simp only [frameExpansion, encodeFrame, pseudoFrame, List.length_cons, List.length_append, List.length_nil]
  omega

/-- Settles O36: the frame's DELIVERs leave RANDOM's reply ahead, and the TAKEs behind them give it byte by byte. -/
theorem randomFrameIsReadBackByTakes : Obligations.RandomFrameIsReadBackByTakes := by
  intro p1 p2 payload crc k rest s hs hinit hidle hpayload hrequests
  obtain ⟨u, hall, hinit', hbuffer, hdraw⟩ := deliverAll_randomFrame p1 p2 crc hidle hpayload
  have hframe := runSteps_deliverRequests (frameExpansion opcodes.random p1 p2 payload crc)
    (List.replicate (k + 1) Request.take ++ rest) hinit
  have hwaiting : s.withRequests (deliverRequests (frameExpansion opcodes.random p1 p2 payload crc) ++
      (List.replicate (k + 1) Request.take ++ rest)) = s := by
    rw [← List.append_assoc, ← hrequests]; rfl
  rw [hwaiting, frameExpansion_length, hall] at hframe
  obtain ⟨t, htakes, hbyte, hrest⟩ := runSteps_takes (s := (doRandom u).setPacketPos 0) k rest (hinit'.trans hinit)
  refine ⟨t, (runSteps_add _ _ hframe).trans htakes, hbyte.trans ?_, hrest⟩
  have hbound : ∀ a, 33 ≤ a → u.readByte .response a = 0x00 := fun a ha =>
    (State.readByte_congr (sp := .response) hbuffer a).trans (hs.replyBound a ha)
  rw [← hdraw, ← replyAhead_doRandom hbound]
  rfl

end Sys2Proof.Machine
end

section
/-! PROOFS. The Command Dispatcher (spec/44_dispatch.md): what each command writes and leaves, the stale opcode of a two-byte
frame, and that `state` gates nothing. -/

namespace Sys2Proof.Machine

/-! ### RANDOM (R212) -/

/-- RANDOM leaves all but the reply and its cursor, the latency and the entropy input (R212). -/
theorem doRandom_frame (s : State) : doRandom s = { s with
    responsePos    := 0
    executionTime  := 23
    responsePacket := (doRandom s).responsePacket
    entropyIn      := s.entropyIn.tail
    drawCount      := s.drawCount + 1 } := rfl

/-- Settles O17: the first 33 bytes read as the status byte and the draw, any later one as before. -/
theorem randomBuildsTheReply : Obligations.RandomBuildsTheReply := by
  intro f s
  refine ⟨doRandom s, rfl, ?_, fun k => ?_, fun a ha => ?_, doRandom_frame s⟩
  · rw [readByte_response_doRandom, if_pos (by omega), List.getD_cons_zero]
  · rw [readByte_response_doRandom, if_pos (by omega), Nat.add_comm, List.getD_cons_succ]
    simp
  · rw [readByte_response_doRandom, if_neg (by omega)]

/-! ### The other commands (R213 to R221) -/

/-- Settles O15: each records its own entry of the latency table, and its opcode byte is told from the eight others. -/
theorem latencyOnlyCommandsRecordTheirLatency : Obligations.LatencyOnlyCommandsRecordTheirLatency :=
  ⟨fun _ _ => ⟨rfl, rfl, rfl, rfl, rfl, rfl, rfl⟩, by decide⟩

/-- Settles O16: NONCE is one of the commands that record a latency alone. -/
theorem nonceRecordsItsLatency : Obligations.NonceRecordsItsLatency := fun _ s =>
  congrArg Host.Outcome.next (runCommand_other (c := .nonce) (by decide) s)

/-- Settles O18: the unknown command has no latency to record, so that raising its error is all it does. -/
theorem unknownCommandSetsSeven : Obligations.UnknownCommandSetsSeven := fun _ _ s =>
  congrArg Host.Outcome.next (runCommand_other (c := .unknown) (by decide) s)

/-! ### The stale opcode (R222, R314) -/

/-- Settles O32: the bytes 03 02 are a whole frame, which ends before the opcode's place in the buffer (decision D7). -/
theorem lengthTwoRepeatsTheStaleOpcode : Obligations.LengthTwoRepeatsTheStaleOpcode := by
  intro s hidle
  have hwhole : IsWholeFrame [0x03, 0x02] := ⟨rfl, rfl, by decide⟩
  obtain ⟨u, hu, hquiet, hall⟩ := hwhole.deliverAll_eq hidle
  have hstale : u.opcode = s.opcode := hu.kept 2 (by decide)
  refine ⟨_, u, exec_raw _ s, ?_, ?_, hu.held 0 _ rfl, hu.held 1 _ rfl, hu.kept⟩
  · rw [hall, dispatch, hstale]; rfl
  · rw [← hquiet]; exact hu.frame

/-! ### No operation looks at `state` (R223, R244) -/

section
variable (s : State) (d : DeviceState)

theorem State.memWrite_setDeviceState (sp : Space) (a : Nat) (v : List Byte) :
    (s.setDeviceState d).memWrite sp a v = (s.memWrite sp a v).setDeviceState d := by cases sp <;> rfl

theorem State.memRead_setDeviceState (sp : Space) (a n : Nat) : (s.setDeviceState d).memRead sp a n = s.memRead sp a n :=
  State.memRead_congr (s.mem_setDeviceState d sp) a n

theorem runCommand_setDeviceState (c : Command) :
    runCommand c (s.setDeviceState d) = (runCommand c s).setDeviceState d := by cases c <;> rfl

theorem dispatch_setDeviceState : dispatch (s.setDeviceState d) = (dispatch s).setDeviceState d :=
  runCommand_setDeviceState s d (opcodes.command s.opcode)

theorem dispatches_setDeviceState (b : Byte) : dispatches b (s.setDeviceState d) = dispatches b s := rfl

theorem deliverStep_setDeviceState (b : Byte) :
    deliverStep (s.setDeviceState d) b = (deliverStep s b).setDeviceState d := by
  have hdispatches := dispatches_setDeviceState s d b
  rcases deliverStep_cases s b with ⟨hfull, -, e⟩ | ⟨hroom, hnot, e⟩ | ⟨-, hdisp, e⟩ <;> rw [e]
  · exact (deliverStep_of_full (s := s.setDeviceState d) hfull b).1
  · exact deliverStep_of_not_dispatches (s := s.setDeviceState d) hroom (hdispatches.trans hnot)
  · rw [deliverStep_of_dispatches (hdispatches.trans hdisp)]
    exact congrArg (State.setPacketPos · 0) (dispatch_setDeviceState (s.begin.store b) d)

theorem deliverAll_setDeviceState (bytes : List Byte) :
    deliverAll bytes (s.setDeviceState d) = (deliverAll bytes s).setDeviceState d := by
  induction bytes generalizing s with
  | nil => rfl
  | cons b bs ih => rw [deliverAll_cons, deliverStep_setDeviceState, ih, deliverAll_cons]

theorem takeStep_setDeviceState : takeStep (s.setDeviceState d) = (takeStep s).setDeviceState d := rfl

theorem readZone_setDeviceState (zone : Byte) (a n : Nat) :
    readZone zone a n (s.setDeviceState d) =
      ((readZone zone a n s).1, (readZone zone a n s).2.setDeviceState d) := by
  unfold readZone
  cases mapZone zone a n with
  | reject e => rfl
  | hit sp a n =>
    exact congrArg (fun bs => (some bs, (s.showLock zone).setDeviceState d)) (State.memRead_setDeviceState s d sp a n)

theorem writeZone_setDeviceState (zone : Byte) (a : Nat) (bytes : List Byte) :
    writeZone zone a bytes (s.setDeviceState d) =
      ((writeZone zone a bytes s).1, (writeZone zone a bytes s).2.setDeviceState d) := by
  unfold writeZone
  cases mapZone zone a bytes.length with
  | reject e => rfl
  | hit sp a n => exact congrArg (Prod.mk true) (State.memWrite_setDeviceState (s.showLock zone) d sp a bytes)

theorem keyStored_setDeviceState (slot : Byte) (key : List Byte) :
    keyStored slot key (s.setDeviceState d) = (keyStored slot key s).setDeviceState d := by
  unfold keyStored storeKey
  split
  · rfl
  · rw [writeZone_setDeviceState]; rfl

theorem slotMasked_setDeviceState (slot : Byte) (mask : List Byte) :
    slotMasked slot mask (s.setDeviceState d) = (slotMasked slot mask s).setDeviceState d := by
  by_cases hslot : 16 ≤ slot.toNat
  · rw [slotMasked_of_slot_invalid hslot, slotMasked_of_slot_invalid hslot]; rfl
  · rw [slotMasked_of_slot_valid (by omega), slotMasked_of_slot_valid (by omega), State.memRead_setDeviceState]; rfl

end

/-- Settles O49: one case for each instruction, by the operation it runs, which carries `state` along. -/
theorem deviceStateGatesNothing : Obligations.DeviceStateGatesNothing := by
  intro i d s t hinit hset ht
  change exec i (s.setDeviceState d) = .next (t.setDeviceState d)
  cases i with
  | init => exact absurd rfl hinit
  | setState e => exact absurd rfl (hset e)
  | random | nonce | genkey | sign | verify | read | write | lock | info | unknown => cases ht; rfl
  | crc16 | lockConfig | lockDataAndOtp | isConfigLocked | isDataAndOtpLocked => cases ht; rfl
  | waCommand => cases ht; exact congrArg _ (deliverStep_setDeviceState s d waCommandByte)
  | waOther b | deliver b => cases ht; exact congrArg _ (deliverStep_setDeviceState s d b)
  | frame | raw => cases ht; exact congrArg _ (deliverAll_setDeviceState s d _)
  | take => rw [exec_take] at ht ⊢; cases ht; exact congrArg _ (takeStep_setDeviceState s d)
  | readZone zone address length =>
    cases ht
    exact congrArg (fun r : Option (List Byte) × State => Host.Outcome.next (r.2.returns (bytesOrError r.1)))
      (readZone_setDeviceState s.begin d zone address.toNat length.toNat)
  | writeZone zone address bytes =>
    cases ht
    exact congrArg (fun r : Bool × State => Host.Outcome.next (r.2.returns (okOrError r.1)))
      (writeZone_setDeviceState s.begin d zone address.toNat bytes)
  | storeKey slot key => cases ht; exact congrArg _ (keyStored_setDeviceState s.begin d slot key)
  | generateKey slot => cases ht; exact congrArg _ (keyStored_setDeviceState s.begin.tookDraw d slot _)
  | computeCombine slot message => cases ht; exact congrArg _ (slotMasked_setDeviceState s d slot message.toList)
  | deriveChild parent => cases ht; exact congrArg _ (slotMasked_setDeviceState s d parent childMask)

end Sys2Proof.Machine
end

section
/-! PROOFS. The Device State Tracker (spec/45_devstate.md): INIT, `setState`, and that nothing else moves `state`. -/

namespace Sys2Proof.Machine

/-! ### INIT (R37, R241) -/

theorem exec_init (s : State) : exec .init s = .next (initDevice s.begin) := rfl

/-- What INIT leaves is reset but for what belongs to the outside (R9, R278). -/
theorem initDevice_begin (s : State) : initDevice s.begin =
    { State.reset with requests := s.requests, entropyIn := s.entropyIn, drawCount := s.drawCount } := rfl

/-- A second INIT changes nothing. -/
theorem initDevice_begin_idem (s : State) : initDevice (initDevice s.begin).begin = initDevice s.begin := rfl

/-- Settles O2: what INIT leaves depends on what belongs to the outside alone, and INIT leaves that alone. -/
theorem initRestoresTheDevice : Obligations.InitRestoresTheDevice := fun s =>
  ⟨initDevice s.begin, exec_init s, initDevice_begin s, (exec_init _).trans (congrArg _ (initDevice_begin_idem s))⟩

/-! ### `setState` (R242, R243) -/

theorem exec_setState (d : DeviceState) (s : State) : exec (.setState d) s = .next (s.begin.setDeviceState d) := rfl

/-- Settles O47: of all the request does, `begin` clears what was given back and `setDeviceState` writes the register. -/
theorem setStateWritesStateAlone : Obligations.SetStateWritesStateAlone := exec_setState

/-- Settles O48: what comes over the bus keeps `state`, and of the host's other requests each but INIT and `setState` does. -/
theorem onlyInitAndSetStateMoveState : Obligations.OnlyInitAndSetStateMoveState := by
  intro i s t ht
  have hbus (hi : i.isRequest = false ∨ i = .take ∨ ∃ b, i = .deliver b) : t.state = s.state := by
    obtain ⟨-, -, -, hstate⟩ := theBusReachesNoZone i s t hi ht
    exact hstate
  cases i with
  | init => rw [exec_init] at ht; cases ht; rfl
  | setState d => rw [exec_setState] at ht; cases ht; rfl
  | crc16 | lockConfig | lockDataAndOtp | isConfigLocked | isDataAndOtpLocked => cases ht; rfl
  | readZone => cases ht; rw [readZone_frame]; rfl
  | writeZone => cases ht; rw [writeZone_frame]; rfl
  | storeKey | generateKey => cases ht; rw [storeKey_frame]; rfl
  | computeCombine | deriveChild => cases ht; rw [readSlot_frame]; rfl
  | take => exact hbus (.inr (.inl rfl))
  | deliver b => exact hbus (.inr (.inr ⟨b, rfl⟩))
  | random | nonce | genkey | sign | verify | read | write | lock | info | unknown | waCommand | waOther | frame | raw =>
    exact hbus (.inl rfl)

end Sys2Proof.Machine
end

section
/-! PROOFS. Errors (spec/60_exceptions.md): what raising an error writes, that a service operation which answers `Error` writes
its code alone, and that no instruction but INIT clears `lastError`. -/

namespace Sys2Proof.Machine

/-! ### Raising an error (R91, R265) -/

/-- Settles O20: `raise` is a write to `lastError`, and each condition has its own code. -/
theorem raisingWritesTheCodeAlone : Obligations.RaisingWritesTheCodeAlone := fun s e =>
  ⟨rfl, by cases e <;> rfl⟩

/-! ### A failing service operation (R136, R265) -/

/-- From `s` to `t` an operation that answers `Error` has written one of the service operations' codes and changed no other
state of the Device (a draw it took stays taken, decision D17); one that answers anything else has kept `lastError`. -/
def State.FailsByCodeAlone (s t : State) : Prop :=
  (t.response.result = .error →
    t = { s with lastError := t.lastError, response := t.response, entropyIn := t.entropyIn, drawCount := t.drawCount } ∧
    t.lastError ∈ [(1 : BitVec 8), 2, 3, 8]) ∧
  (t.response.result ≠ .error → t.lastError = s.lastError)

theorem State.FailsByCodeAlone.of_error {s t : State} (hresult : t.response.result = .error)
    (hframe : t = { s with
      lastError := t.lastError, response := t.response, entropyIn := t.entropyIn, drawCount := t.drawCount })
    (hcode : t.lastError ∈ [(1 : BitVec 8), 2, 3, 8]) : s.FailsByCodeAlone t :=
  ⟨fun _ => ⟨hframe, hcode⟩, fun hother => absurd hresult hother⟩

theorem State.FailsByCodeAlone.of_success {s t : State} (hresult : t.response.result ≠ .error)
    (hkept : t.lastError = s.lastError) : s.FailsByCodeAlone t :=
  ⟨fun herror => absurd herror hresult, fun _ => hkept⟩

/-- The mapper's codes are 1, 2 and 3 (R131). -/
theorem mapZone_reject_code {zone : Byte} {a n : Nat} {e : BlockError} (h : mapZone zone a n = .reject e) :
    e.code ∈ [(1 : BitVec 8), 2, 3, 8] := by
  rcases mapZone_reject h with rfl | rfl | rfl <;> decide

theorem State.failsByCodeAlone_rejects (s : State) {zone : Byte} {a n : Nat} {e : BlockError}
    (h : mapZone zone a n = .reject e) : s.FailsByCodeAlone (s.rejects zone e) :=
  .of_error rfl rfl (mapZone_reject_code h)

theorem readZone_failsByCodeAlone {zone : Byte} {address : Half} {length : Byte} {s t : State}
    (ht : exec (.readZone zone address length) s = .next t) : s.FailsByCodeAlone t := by
  cases hmap : mapZone zone address.toNat length.toNat with
  | reject e => rw [exec_readZone_of_reject hmap] at ht; cases ht; exact s.failsByCodeAlone_rejects hmap
  | hit sp a n => rw [exec_readZone_of_hit hmap] at ht; cases ht; exact .of_success nofun rfl

theorem writeZone_failsByCodeAlone {zone : Byte} {address : Half} {bytes : List Byte} {s t : State}
    (ht : exec (.writeZone zone address bytes) s = .next t) : s.FailsByCodeAlone t := by
  cases hmap : mapZone zone address.toNat bytes.length with
  | reject e => rw [exec_writeZone_of_reject hmap] at ht; cases ht; exact s.failsByCodeAlone_rejects hmap
  | hit sp a n =>
    rw [exec_writeZone_of_hit hmap] at ht
    cases ht
    exact .of_success nofun (State.memWrite_lastError _ sp a bytes)

theorem keyStored_failsByCodeAlone (slot : Byte) (key : List Byte) (s : State) :
    s.FailsByCodeAlone (keyStored slot key s) := by
  rcases storeKey_cases slot key s with ⟨-, h⟩ | ⟨-, -, h⟩ | ⟨-, -, h⟩ <;> rw [keyStored, h]
  · exact .of_error rfl rfl (by simp [BlockError.code])
  · exact .of_error rfl rfl (by simp [BlockError.code])
  · exact .of_success nofun rfl

theorem slotMasked_failsByCodeAlone (slot : Byte) (mask : List Byte) (s : State) :
    s.FailsByCodeAlone (slotMasked slot mask s) := by
  by_cases hslot : 16 ≤ slot.toNat
  · rw [slotMasked_of_slot_invalid hslot]
    exact .of_error rfl rfl (by simp [BlockError.code])
  · rw [slotMasked_of_slot_valid (by omega)]
    exact .of_success nofun rfl

/-- Settles O21: one case for each request. Only the zone requests and the key operations ever answer `Error`. -/
theorem failingOperationChangesOnlyLastError : Obligations.FailingOperationChangesOnlyLastError := by
  intro i s t hrequest hinit hdeliver ht
  change s.FailsByCodeAlone t
  cases i with
  | init => exact absurd rfl hinit
  | deliver b => exact absurd rfl (hdeliver b)
  | take => rw [exec_take] at ht; cases ht; exact .of_success nofun rfl
  | crc16 | lockConfig | lockDataAndOtp | isConfigLocked | isDataAndOtpLocked | setState =>
    cases ht; exact .of_success nofun rfl
  | readZone => exact readZone_failsByCodeAlone ht
  | writeZone => exact writeZone_failsByCodeAlone ht
  | storeKey slot key => cases ht; exact keyStored_failsByCodeAlone slot key s.begin
  | generateKey slot => cases ht; exact keyStored_failsByCodeAlone slot _ s.begin.tookDraw
  | computeCombine slot message => cases ht; exact slotMasked_failsByCodeAlone slot message.toList s
  | deriveChild parent => cases ht; exact slotMasked_failsByCodeAlone parent childMask s
  | random | nonce | genkey | sign | verify | read | write | lock | info | unknown | waCommand | waOther | frame | raw =>
    cases hrequest

/-! ### What `lastError` can become (R26, R267) -/

/-- `lastError` is in `t` as in `s`, or one of the five codes. -/
def State.KeepsOrRaises (s t : State) : Prop :=
  t.lastError = s.lastError ∨ t.lastError ∈ [(1 : BitVec 8), 2, 3, 7, 8]

theorem State.KeepsOrRaises.trans {s t u : State} (hst : s.KeepsOrRaises t) (htu : t.KeepsOrRaises u) :
    s.KeepsOrRaises u := by
  rcases htu with hkept | hcode
  · rw [State.KeepsOrRaises, hkept]; exact hst
  · exact .inr hcode

theorem State.FailsByCodeAlone.keepsOrRaises {s t : State} (h : s.FailsByCodeAlone t) : s.KeepsOrRaises t := by
  obtain ⟨hfail, hother⟩ := h
  by_cases herror : t.response.result = .error
  · obtain ⟨-, hcode⟩ := hfail herror
    have hsubset : [(1 : BitVec 8), 2, 3, 8] ⊆ [1, 2, 3, 7, 8] := by decide
    exact .inr (hsubset hcode)
  · exact .inl (hother herror)

theorem runCommand_keepsOrRaises (c : Command) (s : State) : s.KeepsOrRaises (runCommand c s) := by
  by_cases hrandom : c = .random
  · subst hrandom; exact .inl rfl
  by_cases hunknown : c = .unknown
  · subst hunknown; exact .inr (by simp [runCommand, doUnknown, BlockError.code])
  · rw [runCommand_other hrandom]; exact .inl (if_neg hunknown)

theorem deliverStep_keepsOrRaises (s : State) (b : Byte) : s.KeepsOrRaises (deliverStep s b) := by
  rcases deliverStep_cases s b with ⟨-, -, e⟩ | ⟨-, -, e⟩ | ⟨-, -, e⟩ <;> rw [e]
  · exact .inl rfl
  · exact .inl rfl
  · exact runCommand_keepsOrRaises _ (s.begin.store b)

theorem deliverAll_keepsOrRaises (bytes : List Byte) (s : State) : s.KeepsOrRaises (deliverAll bytes s) :=
  deliverAll_keeps (P := s.KeepsOrRaises) (fun u b hu => hu.trans (deliverStep_keepsOrRaises u b)) bytes (.inl rfl)

theorem exec_keepsOrRaises {i : Instr} {s t : State} (hinit : i ≠ .init) (ht : exec i s = .next t) :
    s.KeepsOrRaises t := by
  cases hrequest : i.isRequest with
  | false =>
    rcases exec_cases_of_not_isRequest hrequest s with ⟨c, e⟩ | ⟨bytes, e⟩ <;> rw [e] at ht <;> cases ht
    · exact runCommand_keepsOrRaises c s
    · exact deliverAll_keepsOrRaises bytes s
  | true =>
    by_cases hdeliver : ∃ b, i = .deliver b
    · obtain ⟨b, rfl⟩ := hdeliver; cases ht; exact deliverStep_keepsOrRaises s b
    · have hservice : s.FailsByCodeAlone t :=
        failingOperationChangesOnlyLastError i s t hrequest hinit (fun b h => hdeliver ⟨b, h⟩) ht
      exact hservice.keepsOrRaises

/-- Settles O23: a command, delivered bytes or a service operation keeps `lastError` or raises; INIT writes 0. -/
theorem lastErrorIsSticky : Obligations.LastErrorIsSticky :=
  ⟨fun _ _ _ hinit ht => exec_keepsOrRaises hinit ht, fun s => ⟨_, exec_init s, rfl⟩⟩

end Sys2Proof.Machine
end

section
/-! PROOFS. Reset and hazards (spec/70_reset_and_hazards.md): only INIT frees a wedged framer, and what wedges a legal one. -/

namespace Sys2Proof.Machine

/-! ### A wedged framer stays wedged (R311, decision D8) -/

/-- The wedge is a condition on the receive cursor and the receive buffer. -/
theorem State.Wedged.of_receiveKept {s t : State} (h : s.Wedged) (hkept : s.ReceiveKept t) : t.Wedged := by
  obtain ⟨hcursor, hbuffer⟩ := hkept
  have hread (a : Nat) : t.readByte .command a = s.readByte .command a := State.readByte_congr (sp := .command) hbuffer a
  rwa [State.Wedged, hcursor, hread, hread]

theorem State.Wedged.deliverAll {s : State} (h : s.Wedged) (bytes : List Byte) : (deliverAll bytes s).Wedged :=
  deliverAll_keeps (fun _ b hu => hu.deliverStep b) bytes h

theorem State.Wedged.of_exec {i : Instr} {s t : State} (h : s.Wedged) (hinit : i ≠ .init) (ht : exec i s = .next t) :
    t.Wedged := by
  rcases exec_receiveKept_or_delivers hinit ht with hkept | ⟨bytes, rfl⟩
  · exact h.of_receiveKept hkept
  · exact h.deliverAll bytes

/-- A DELIVER that dispatches nothing touches the receive side alone, whether it stores its byte or drops it (R182, R187). -/
theorem deliverStep_frame_of_not_dispatches {s : State} {b : Byte} (hnot : dispatches b s = false) :
    deliverStep s b = { s with
      packetPos     := (deliverStep s b).packetPos
      commandPacket := (deliverStep s b).commandPacket
      response      := .quiet } := by
  rcases deliverStep_cases s b with ⟨-, -, e⟩ | ⟨-, -, e⟩ | ⟨-, hdisp, -⟩
  · rw [e]; rfl
  · rw [e]; rfl
  · rw [hnot] at hdisp; cases hdisp

/-- Settles O29: the wedge reads the receive side alone, which only delivered bytes change; they keep the wedge, and none of
them is dispatched. -/
theorem wedgedFramerStaysWedged : Obligations.WedgedFramerStaysWedged := by
  intro i s t hwedged hinit ht
  refine ⟨hwedged.of_exec hinit ht, ?_⟩
  rintro ⟨b, rfl⟩
  cases ht
  exact deliverStep_frame_of_not_dispatches (hwedged.not_dispatches b)

/-! ### What wedges a legal framer (R38, R311) -/

/-- In a legal state the only declared lengths that the cursor of a command frame has reached are those that never complete
(R83). -/
theorem State.Inv.length_le_packetPos_iff {s : State} (h : s.Inv) (hmarker : s.readByte .command 0 = 3)
    (hpos : 2 ≤ s.packetPos.toNat) : (s.readByte .command 1).toNat ≤ s.packetPos.toNat ↔
      s.readByte .command 1 = 0 ∨ s.readByte .command 1 = 1 := by
  have hpassed := h.notPassed hpos hmarker
  have hzero : s.readByte .command 1 = 0 ↔ (s.readByte .command 1).toNat = 0 := BitVec.toNat_inj.symm
  have hone : s.readByte .command 1 = 1 ↔ (s.readByte .command 1).toNat = 1 := BitVec.toNat_inj.symm
  rw [hzero, hone]
  omega

/-- Settles O31: the two conditions differ only in a command frame from cursor 2 on, and there the invariant leaves 0 and 1 as
the lengths the cursor has reached. -/
theorem threePatternsWedge : Obligations.ThreePatternsWedge := by
  intro s hs
  refine and_congr_right fun _ => or_congr_right' fun hmarker => and_congr_right fun hpos => ?_
  rw [hs.length_le_packetPos_iff (not_not.mp hmarker) hpos, or_assoc]

end Sys2Proof.Machine
end
